-- ==== Sys2Proof/Word.lean ====
section
/-! DEFINITION. The words of the engine: every value is an unsigned integer of a stated width (00_scope.md R7). -/

namespace Sys2Proof

/-- A 32-bit unsigned word (R7, R21). -/
abbrev Word := BitVec 32

/-- A byte of the message, the base digest, the accumulator or the result text (R7). -/
abbrev Byte := BitVec 8

/-- A 40-bit host word, bit 39 most significant (30_encoding.md R51). -/
abbrev HostWord := BitVec 40

end Sys2Proof
end

