-- ==== Sys2Proof/Syntax.lean ====
section
/-! DEFINITION. The instructions: one constructor per row of spec/opcode_table.json, in the table's order. -/

namespace Sys2Proof

/-- The operations of the engine. The first fourteen are host words (format HOST, 30_encoding.md R51, R53); the last seven
are the sequencer's micro-operations (format UOP, R54). A read keeps the `DATA` field `d` of its word, which the engine
ignores (R51; log 14), so that no bit of an encoding is lost. -/
inductive Instr where
  /-- `START` = `WR CMD, 1` (R64). -/
  | start
  /-- `CLEAR` = `WR CMD, 2` (R66). -/
  | clear
  /-- `WR CMD, v` with `v` not 1 or 2: a reserved command (R55). -/
  | wrCmd (v : Word)
  /-- `WR LEN, v` (R61). -/
  | wrLen (v : Word)
  /-- `WR OHL, v` (R61). -/
  | wrOhl (v : Word)
  /-- `WR r, v` with `r` read-only or reserved (R56). -/
  | wrOther (r : BitVec 7) (v : Word)
  /-- `RD CMD` (R62). -/
  | rdCmd (d : Word)
  /-- `RD STATUS` (R62). -/
  | rdStatus (d : Word)
  /-- `RD ERRINFO` (R62). -/
  | rdErrinfo (d : Word)
  /-- `RD LEN` (R62). -/
  | rdLen (d : Word)
  /-- `RD OHL` (R62). -/
  | rdOhl (d : Word)
  /-- `RD HLEN` (R62). -/
  | rdHlen (d : Word)
  /-- `RD HEX[i]`, `i` in 0..63 (R63). -/
  | rdHex (i : BitVec 6) (d : Word)
  /-- `RD r` with `r` reserved, 0x06..0x3F (R56). -/
  | rdOther (r : BitVec 7) (d : Word)
  /-- Stage A, the state initializer (R75). -/
  | init
  /-- Stage B, block load and padding (R80). -/
  | load
  /-- Stage B, the word mixing pass (R82). -/
  | wmix
  /-- Stage B, the state update pass (R84). -/
  | supd
  /-- Stage C, the base digest (R90). -/
  | fin
  /-- Stage D, one expansion iteration (R95). -/
  | xpnd
  /-- Stage D, truncation and hex encoding (R98). -/
  | emit
  deriving DecidableEq, Repr

/-- What the engine decodes (R50): a 40-bit host word or a 4-bit `PHASE` code. -/
inductive CodeWord where
  | host (w : HostWord)
  | uop (c : BitVec 4)
  deriving DecidableEq, Repr

/-- Why a code word selects no operation. Only `PHASE` codes are ever rejected: the host-word decoder is total (R53). -/
inductive Reject where
  /-- Codes 0, 8, 15 (IDLE, DONE, ERROR): the engine has no step (R54). -/
  | noMicroOperation (c : BitVec 4)
  /-- Codes 9 to 14: written by no rule, unreachable (R24, R54). -/
  | unreachableCode (c : BitVec 4)
  deriving DecidableEq, Repr

/-- The operations the host issues, as opposed to the sequencer's micro-operations (R50, R58). -/
def Instr.isHost : Instr → Bool
  | .start | .clear | .wrCmd _ | .wrLen _ | .wrOhl _ | .wrOther _ _ => true
  | .rdCmd _ | .rdStatus _ | .rdErrinfo _ | .rdLen _ | .rdOhl _ | .rdHlen _ | .rdHex _ _ | .rdOther _ _ => true
  | .init | .load | .wmix | .supd | .fin | .xpnd | .emit => false

end Sys2Proof
end

