-- ==== Sys2Proof/WellFormed.lean ====
section
/-! DEFINITION. Which terms of `Instr` stand for a row of the opcode map (30_encoding.md R53). -/

namespace Sys2Proof

/-- A reserved command is any `CMD` value but 1 (START) and 2 (CLEAR) (R53, R55). -/
def reservedCommand (v : Word) : Bool := v != 1 && v != 2

/-- The registers a write to which is ignored: 0x01, 0x02, 0x05 and 0x06..0x7F (R53, R56). -/
def ignoredWrite (r : BitVec 7) : Bool := r != 0x00 && r != 0x03 && r != 0x04

/-- The reserved register numbers 0x06..0x3F (R51, R56). -/
def reservedRegister (r : BitVec 7) : Bool := decide (0x06 ≤ r.toNat) && decide (r.toNat ≤ 0x3F)

/-- The operands a row admits; every other row admits every operand (R53). -/
def Instr.wf : Instr → Bool
  | .wrCmd v => reservedCommand v
  | .wrOther r _ => ignoredWrite r
  | .rdOther r _ => reservedRegister r
  | .start | .clear | .wrLen _ | .wrOhl _ => true
  | .rdCmd _ | .rdStatus _ | .rdErrinfo _ | .rdLen _ | .rdOhl _ | .rdHlen _ | .rdHex _ _ => true
  | .init | .load | .wmix | .supd | .fin | .xpnd | .emit => true

end Sys2Proof
end

