-- ==== Sys2Proof/Decode.lean ====
section
/-! DEFINITION. Decoding host words and `PHASE` codes (30_encoding.md R51, R53, R54), then the encoder, both from the
spec's own tables. -/

namespace Sys2Proof

/-- Bit 39, `WRF`: 1 for a write transaction (R51). -/
def hostWrf (w : HostWord) : Bool := w.getLsbD 39

/-- Bits 38:32, `REG` (R51). -/
def hostReg (w : HostWord) : BitVec 7 := w.extractLsb' 32 7

/-- Bits 31:0, `DATA` (R51), used whole (R52). -/
def hostData (w : HostWord) : Word := w.extractLsb' 0 32

/-- The write half of the opcode map (R53): all 32 bits of `DATA` are compared with the command codes (R52). -/
def decodeWrite (r : BitVec 7) (v : Word) : Instr :=
  if r = 0x00 then
    if v = 1 then .start else if v = 2 then .clear else .wrCmd v
  else if r = 0x03 then .wrLen v
  else if r = 0x04 then .wrOhl v
  else .wrOther r v

/-- The read half of the opcode map (R53); `DATA` is carried and ignored (log 14). -/
def decodeRead (r : BitVec 7) (d : Word) : Instr :=
  if r = 0x00 then .rdCmd d
  else if r = 0x01 then .rdStatus d
  else if r = 0x02 then .rdErrinfo d
  else if r = 0x03 then .rdLen d
  else if r = 0x04 then .rdOhl d
  else if r = 0x05 then .rdHlen d
  else if 0x40 ≤ r.toNat then .rdHex (r.extractLsb' 0 6) d
  else .rdOther r d

/-- Every 40-bit value is some host word; none is illegal (R53). -/
def decodeHost (w : HostWord) : Instr :=
  if hostWrf w then decodeWrite (hostReg w) (hostData w) else decodeRead (hostReg w) (hostData w)

/-- The micro-operation a `PHASE` code selects (R54). -/
def decodeUop (c : BitVec 4) : Except Reject Instr :=
  if c = 1 then .ok .init
  else if c = 2 then .ok .load
  else if c = 3 then .ok .wmix
  else if c = 4 then .ok .supd
  else if c = 5 then .ok .fin
  else if c = 6 then .ok .xpnd
  else if c = 7 then .ok .emit
  else if c = 0 ∨ c = 8 ∨ c = 15 then .error (.noMicroOperation c)
  else .error (.unreachableCode c)

/-- The decoder, total on both formats (R50). -/
def decode : CodeWord → Except Reject Instr
  | .host w => .ok (decodeHost w)
  | .uop c => decodeUop c

/-- The code word of an instruction, from R53's patterns (`WRF` and `REG` as the first byte, then `DATA`) and R54's codes. -/
def encode : Instr → CodeWord
  | .start => .host 0x8000000001#40
  | .clear => .host 0x8000000002#40
  | .wrCmd v => .host (0x80#8 ++ v)
  | .wrLen v => .host (0x83#8 ++ v)
  | .wrOhl v => .host (0x84#8 ++ v)
  | .wrOther r v => .host (1#1 ++ r ++ v)
  | .rdCmd d => .host (0x00#8 ++ d)
  | .rdStatus d => .host (0x01#8 ++ d)
  | .rdErrinfo d => .host (0x02#8 ++ d)
  | .rdLen d => .host (0x03#8 ++ d)
  | .rdOhl d => .host (0x04#8 ++ d)
  | .rdHlen d => .host (0x05#8 ++ d)
  | .rdHex i d => .host (0b01#2 ++ i ++ d)
  | .rdOther r d => .host (0#1 ++ r ++ d)
  | .init => .uop 1
  | .load => .uop 2
  | .wmix => .uop 3
  | .supd => .uop 4
  | .fin => .uop 5
  | .xpnd => .uop 6
  | .emit => .uop 7

/-- The host rows of R53 as mask and match, in the order in which a decoder tests them. The decoder above does not use
this list: it is the manual's table, to be held against it. -/
def hostTable : List (HostWord × HostWord) :=
  [(0xFFFFFFFFFF#40, 0x8000000001#40), (0xFFFFFFFFFF#40, 0x8000000002#40), (0xFF00000000#40, 0x8000000000#40),
   (0xFF00000000#40, 0x8300000000#40), (0xFF00000000#40, 0x8400000000#40), (0x8000000000#40, 0x8000000000#40),
   (0xFF00000000#40, 0x0000000000#40), (0xFF00000000#40, 0x0100000000#40), (0xFF00000000#40, 0x0200000000#40),
   (0xFF00000000#40, 0x0300000000#40), (0xFF00000000#40, 0x0400000000#40), (0xFF00000000#40, 0x0500000000#40),
   (0xC000000000#40, 0x4000000000#40), (0x8000000000#40, 0x0000000000#40)]

/-- The first row of R53 that a host word matches. -/
def firstHostRow (w : HostWord) : Nat := hostTable.findIdx fun row => w &&& row.1 == row.2

/-- The place of an instruction's row in the opcode table, counted from 0. -/
def Instr.row : Instr → Nat
  | .start => 0 | .clear => 1 | .wrCmd _ => 2 | .wrLen _ => 3 | .wrOhl _ => 4 | .wrOther _ _ => 5
  | .rdCmd _ => 6 | .rdStatus _ => 7 | .rdErrinfo _ => 8 | .rdLen _ => 9 | .rdOhl _ => 10 | .rdHlen _ => 11
  | .rdHex _ _ => 12 | .rdOther _ _ => 13
  | .init => 14 | .load => 15 | .wmix => 16 | .supd => 17 | .fin => 18 | .xpnd => 19 | .emit => 20

/-- The decoder on a word numbered as spec/opcode_table.json numbers it: a row of 4 bits (8 with the rest of its byte) is a
`PHASE` code, a longer one is a host word whose bits above `nbits` are 0 (log 17). -/
def decodeTableWord (nbits w : Nat) : Option Instr :=
  if nbits ≤ 8 then
    if w < 16 then
      match decode (.uop (BitVec.ofNat 4 w)) with
      | .ok i => some i
      | .error _ => none
    else none
  else if w < 2 ^ 40 then some (decodeHost (BitVec.ofNat 40 w))
  else none

end Sys2Proof
end

