-- ==== Sys2Proof/Machine/Operands.lean ====
section
/-! DEFINITION. The fixed constants, the arithmetic primitives and the stage functions (00_scope.md R5, R9 to R16; the
stage files 41 to 44). -/

namespace Sys2Proof.Machine

/-- Word-mixing constant `C1` (R5). -/
def C1 : Word := 0x9E3779B1#32
/-- Word-mixing factor `C2` (R5). -/
def C2 : Word := 0x5BD1E995#32
/-- State-update addend `C3` (R5). -/
def C3 : Word := 0x6A09E667#32
/-- Stage D addend `KADD` (R5). -/
def KADD : Byte := 0xA3#8
/-- The filler's factor `PADMUL` (R5). -/
abbrev PADMUL : Nat := 31
/-- The block size in bytes `BLKBYTES` (R5). -/
abbrev BLKBYTES : Nat := 16
/-- The bounds `OHLMIN`, `OHLMAX` of the requested length (R5). -/
abbrev OHLMIN : Nat := 2
/-- The upper bound of the requested length (R5). -/
abbrev OHLMAX : Nat := 64

/-- R9: addition modulo 2^32. -/
def add32 (x y : Word) : Word := x + y
/-- R10: the low 32 bits of the product. -/
def mul32 (x y : Word) : Word := x * y
/-- R11: logical left shift, truncated to 32 bits (amounts of 32 or more never occur, log 20). -/
def shl32 (x : Word) (s : Nat) : Word := x <<< s
/-- R11: unsigned right shift. -/
def shr32 (x : Word) (s : Nat) : Word := x >>> s
/-- R12: circular left rotation, by `s mod 32`; the identity for 0 and for 32. -/
def rotl32 (x : Word) (s : Nat) : Word :=
  if s % 32 = 0 then x else (x <<< (s % 32)) ||| (x >>> (32 - s % 32))
/-- R13: bitwise exclusive or. -/
def xor32 (x y : Word) : Word := x ^^^ y
/-- R14: addition modulo 256. -/
def add8 (x y : Byte) : Byte := x + y
/-- R15: four bytes as a big-endian word, the first the most significant. -/
def be32 (b0 b1 b2 b3 : Byte) : Word := b0 ++ b1 ++ b2 ++ b3
/-- R15: byte `k` (0..3) of a word packed big-endian, the most significant byte first. -/
def be32Byte (w : Word) (k : Nat) : Byte := w.extractLsb' (24 - 8 * k) 8
/-- R16: the ASCII code of the character at position `v` of `0123456789abcdef`. -/
def hexdigit (v : BitVec 4) : Byte :=
  if v.toNat < 10 then BitVec.ofNat 8 (0x30 + v.toNat) else BitVec.ofNat 8 (0x61 + (v.toNat - 10))
/-- R16: the two characters of a byte, high nibble first. -/
def hex2 (b : Byte) : List Byte := [hexdigit (b.extractLsb' 4 4), hexdigit (b.extractLsb' 0 4)]

/-- The word after word `j`, `(j + 1) mod 4`. -/
def nextWord (j : Fin 4) : Fin 4 := ⟨(j.val + 1) % 4, Nat.mod_lt _ (by decide)⟩

/-- The four updates of a pass, strictly sequential, `j` = 0, 1, 2, 3 (R8, R87). -/
def passOrder : List (Fin 4) := [0, 1, 2, 3]

/-- Stage A (R75): `IV[i] ^ shl32(LEN, 8i)`. -/
def stageA (iv : Vector Word 4) (len : Word) : Vector Word 4 :=
  Vector.ofFn fun i : Fin 4 => xor32 iv[i] (shl32 len (8 * i.val))

/-- The number of blocks, `ceil(LEN / 16)` (R86). -/
def nblk (len : Nat) : Nat := (len + (BLKBYTES - 1)) / BLKBYTES

/-- The filler byte of a block with `present` message bytes: `(pad_len * 31) mod 256` (R80). -/
def fillByte (present : Nat) : Byte := BitVec.ofNat 8 ((BLKBYTES - present) * PADMUL % 256)

/-- Byte `i` of block `k` of the message `M` of `len` bytes: a message byte, or the filler past the end (R80). -/
def blockByte (M : Nat → Byte) (len k i : Nat) : Byte :=
  let base := BLKBYTES * k
  let rem := len - base
  if i < rem then M (base + i) else fillByte rem

/-- Stage B, the block as four big-endian words (R80, R42). -/
def loadblock (M : Nat → Byte) (len k : Nat) : Vector Word 4 :=
  let B := blockByte M len k
  Vector.ofFn fun i : Fin 4 => be32 (B (4 * i.val)) (B (4 * i.val + 1)) (B (4 * i.val + 2)) (B (4 * i.val + 3))

/-- The rotation amount of word mixing: the word's top byte mod 31, plus 1 (R82). -/
def mixShift (w : Word) : Nat := (w.extractLsb' 24 8).toNat % 31 + 1

/-- Update `j` of the word mixing pass, on the array as the earlier updates left it (R82). -/
def wmixStep (S W : Vector Word 4) (j : Fin 4) : Vector Word 4 :=
  let t := add32 (add32 W[j] S[j]) (mul32 (BitVec.ofNat 32 j.val) C1)
  W.set j (xor32 (rotl32 t (mixShift W[j])) (mul32 W[nextWord j] C2))

/-- Stage B, the word mixing pass (R82). -/
def wmix (S W : Vector Word 4) : Vector Word 4 := passOrder.foldl (wmixStep S) W

/-- The rotation amount of the state update pass, `(round*7 + j*3) mod 32` (R84). -/
def updateShift (round j : Nat) : Nat := (round * 7 + j * 3) % 32

/-- Update `j` of the state update pass, on the array as the earlier updates left it (R84). -/
def supdStep (W : Vector Word 4) (round : Nat) (S : Vector Word 4) (j : Fin 4) : Vector Word 4 :=
  S.set j (xor32 (rotl32 (add32 S[j] W[j]) (updateShift round j.val)) (add32 S[nextWord j] C3))

/-- Stage B, the state update pass of a round (R84). -/
def supd (S W : Vector Word 4) (round : Nat) : Vector Word 4 := passOrder.foldl (supdStep W round) S

/-- Stage C's four output words a, b, c, d (R90): logical shifts, no rotation. -/
def finWords (S : Vector Word 4) : Vector Word 4 :=
  #v[xor32 (xor32 S[0] (shl32 S[1] 5)) (shr32 S[2] 7),
     xor32 (xor32 S[1] (shl32 S[2] 3)) (shr32 S[3] 11),
     xor32 (xor32 S[2] (shl32 S[3] 7)) (shr32 S[0] 13),
     xor32 (xor32 S[3] (shl32 S[0] 11)) (shr32 S[1] 3)]

/-- Stage C, the base digest: a, b, c, d packed big-endian (R90, R42). -/
def stageC (S : Vector Word 4) : Vector Byte 16 :=
  Vector.ofFn fun k : Fin 16 => be32Byte (finWords S)[k.val / 4] (k.val % 4)

/-- The counter byte of index `idx`: `(CTR >> ((idx mod 4)*8)) & 0xFF` (R95). -/
def counterByte (ctr : Word) (idx : Nat) : Byte := ctr.extractLsb' (8 * (idx % 4)) 8

/-- Stage D, the 16 bytes of one iteration: exclusive or first, then the addition, then 8 bits kept (R95). -/
def chunk (base : Vector Byte 16) (ctr : Word) : Vector Byte 16 :=
  Vector.ofFn fun idx : Fin 16 => add8 (base[idx] ^^^ counterByte ctr idx.val) KADD

/-- The accumulator with a chunk written at `ACC[at .. at+15]` (R95). -/
def appendChunk (acc : Vector Byte 32) (start : Nat) (x : Vector Byte 16) : Vector Byte 32 :=
  Vector.ofFn fun k : Fin 32 => if h : start ≤ k.val ∧ k.val - start < 16 then x[k.val - start] else acc[k]

/-- The needed byte count, `output_hex_len div 2` (R96). -/
def needed (ohl : Nat) : Nat := ohl / 2

/-- Stage D, both truncations and the hex encoding (R98): `needed` bytes, two characters a byte, then `ohl` characters. -/
def hexString (acc : List Byte) (ohl : Nat) : List Byte := ((acc.take (needed ohl)).flatMap hex2).take ohl

end Sys2Proof.Machine
end

