-- ==== Sys2Proof/Config.lean ====
section
/-! DEFINITION. What an implementation fixes and the spec leaves open: uninterpreted constants with no body. -/

namespace Sys2Proof

/-- The initialization vector `IV[0..3]`, the engine's one open parameter (00_scope.md R4, D1, U1; log 2).
Uninterpreted: no statement can lean on a value. -/
opaque Config.iv : Fin 4 → Word

/-- Free value: what the `n`-th unspecified `RD HEX[i]` returns (40_host_interface.md R63, U3; log 5). -/
opaque Config.freeRead : Nat → Word

/-- Free value: the byte read at a message offset the host never placed, or changed during the run, by run number and
offset (U4, U5; log 6 and log 7). -/
opaque Config.freeMsg : Nat → Nat → Byte

/-- Free value: what a data register holds after a reset transition, by draw number and register slot
(70_reset_and_hazards.md R130, U2; log 4). -/
opaque Config.freeAtReset : Nat → Nat → Word

end Sys2Proof
end

