-- ==== Sys2Proof/Machine/State.lean ====
section
/-! DEFINITION. The machine's state as plain data, its reasons to stop, and the state right after reset. -/

namespace Sys2Proof.Machine

/-- `PHASE`, the sequencer's program counter: the ten named values of 10_state.md R24 (log 13). -/
inductive Phase where
  | idle | init | load | wmix | supd | fin | xpnd | emit | done | error
  deriving DecidableEq, Repr

/-- What the outside world does next (10_state.md R20, 30_encoding.md R58, 70_reset_and_hazards.md R130; log 1). -/
inductive Input where
  /-- One host transaction (R51). -/
  | word (w : HostWord)
  /-- The engine's turn: one engine step, if it has one (R67). -/
  | engine
  /-- `WAIT`: repeat `RD STATUS` until `BUSY` = 0 (R58; log 15). -/
  | wait
  /-- The host places one message byte at an offset of `MSG` (R40, R58). -/
  | place (offset : Word) (b : Byte)
  /-- The reset input `rst` (R130). -/
  | rst
  deriving DecidableEq, Repr

/-- The message space `MSG` (20_memory.md R40): the bytes the host has placed, by offset, at most one entry an offset. -/
abbrev Memory := List Host.Cell

/-- The canonical form: offsets strictly rising and below 2^32. An unlisted offset holds no value (log 6), so no entry can
equal what an unlisted offset reads as. -/
abbrev Memory.wf (m : Memory) : Prop := (m.map Prod.fst).Pairwise (· < ·) ∧ ∀ c ∈ m, c.1 < 2 ^ 32

/-- The machine's state: the registers of 10_state.md section 1, the message space, and the model's own fields. -/
structure State where
  /-- State words `S[0..3]` (R21). -/
  S : Vector Word 4
  /-- Block words `W[0..3]` (R22). -/
  W : Vector Word 4
  /-- The sequencer's place (R24). -/
  PHASE : Phase
  /-- Block index (R25). -/
  BLK : Word
  /-- Round index (R25). -/
  RND : BitVec 2
  /-- Input byte length (R30). -/
  LEN : Word
  /-- Requested output length in hex characters (R31). -/
  OHL : Word
  /-- The recorded error (R29). -/
  ERRINFO : Word
  /-- Number of valid result characters (R32). -/
  HLEN : BitVec 7
  /-- Base digest (R33). -/
  BASE : Vector Byte 16
  /-- Expansion counter (R34). -/
  CTR : Word
  /-- Expansion accumulator (R35). -/
  ACC : Vector Byte 32
  /-- Number of valid bytes in `ACC` (R35). -/
  ACCLEN : BitVec 6
  /-- Result characters (R36). -/
  HEX : Vector Byte 64
  /-- The message space (20_memory.md R40). -/
  MSG : Memory
  /-- The parameter `IV[0..3]` (R4, R37), which no step writes (log 2). -/
  IV : Vector Word 4
  /-- The model's own: what the host and `rst` do next (log 1). -/
  inputs : List Input
  /-- The model's own: what the last host transaction returned, none for a write (R51; log 8). -/
  ret : Option Word
  /-- The model's own: how many free values have been drawn (log 4, log 5). -/
  draws : Nat
  /-- The model's own: how many STARTs have been accepted (log 6). -/
  runs : Nat
  /-- The model's own: the host has changed the message during this run (R46, U4; log 7). -/
  msgBroken : Bool
  deriving DecidableEq, Repr

/-- Why a step can stop. The hardware has no such stop (60_exceptions.md R117): each constructor is an index of a register
array or of `MSG` that the spec says does not exist, met only in states no run reaches. -/
inductive Fault where
  /-- Raised by LOAD when block `BLK` starts above `LEN`: it would read an offset at or above `LEN` (20_memory.md R41).
  Safe: the model stops where the spec gives no byte (log 10). -/
  | msgOffset
  /-- Raised by XPND when `ACCLEN` is above 16: it would write above `ACC[31]` (R35). Safe (log 11). -/
  | accIndex
  /-- Raised by EMIT when `OHL` is odd or above 64: it would copy a character that does not exist (R36, R98). Safe (log 12). -/
  | hexIndex
  deriving DecidableEq, Repr

/-- Why a step can be refused. -/
inductive Refusal where
  /-- Raised by `exec` for an instruction with no meaning yet; no arm of this model raises it. Safe. -/
  | notModelled (mnemonic : String)
  deriving DecidableEq, Repr

/-- The machine right after reset (10_state.md R39, 70_reset_and_hazards.md R130): `PHASE`, `ERRINFO`, `LEN`, `OHL`, `HLEN` as
the spec says; DESIGN CHOICE, log 3, for the data registers, which the spec leaves unspecified. -/
def State.reset : State where
  S := Vector.replicate 4 0
  W := Vector.replicate 4 0
  PHASE := .idle
  BLK := 0
  RND := 0
  LEN := 0
  OHL := 0
  ERRINFO := 0
  HLEN := 0
  BASE := Vector.replicate 16 0
  CTR := 0
  ACC := Vector.replicate 32 0
  ACCLEN := 0
  HEX := Vector.replicate 64 0
  MSG := []
  IV := Vector.ofFn Config.iv
  inputs := []
  ret := none
  draws := 0
  runs := 0
  msgBroken := false

end Sys2Proof.Machine
end

