-- ==== Sys2Proof/Machine/Flags.lean ====
section
/-! DEFINITION. The status bits, the pins, `STATUS`, the length check and `ERRINFO` (10_state.md R24, R26, R28, R29;
60_exceptions.md R111 to R113). The engine has no arithmetic flag (R26). -/

namespace Sys2Proof.Machine

/-- The 4-bit code of a phase (R24). -/
def Phase.code : Phase → BitVec 4
  | .idle => 0 | .init => 1 | .load => 2 | .wmix => 3 | .supd => 4 | .fin => 5 | .xpnd => 6 | .emit => 7
  | .done => 8 | .error => 15

/-- The phase of a code, none for the unreachable codes 9 to 14 (R24, U8). -/
def Phase.ofCode (c : BitVec 4) : Option Phase :=
  [Phase.idle, .init, .load, .wmix, .supd, .fin, .xpnd, .emit, .done, .error].find? fun p => p.code = c

/-- `BUSY`: `PHASE` in 1..7 (R26). -/
def Phase.busy : Phase → Bool
  | .init | .load | .wmix | .supd | .fin | .xpnd | .emit => true
  | .idle | .done | .error => false

/-- `BUSY` of a state (R26). -/
def State.busy (s : State) : Bool := s.PHASE.busy
/-- `DONE`, also the level of pin `done` (R26, R116). -/
def State.doneBit (s : State) : Bool := s.PHASE = .done
/-- `ERR`, also the level of pin `err` (R26, R116). -/
def State.errBit (s : State) : Bool := s.PHASE = .error

/-- `STATUS` (R28, R62): `{0[24:0], ERR, DONE, BUSY, PHASE[3:0]}`. -/
def State.statusWord (s : State) : Word :=
  0#25 ++ BitVec.ofBool s.errBit ++ BitVec.ofBool s.doneBit ++ BitVec.ofBool s.busy ++ s.PHASE.code

/-- The requested length is odd (R64). -/
def lenOdd (ohl : Word) : Bool := ohl.getLsbD 0
/-- The requested length is below 2 (R64). -/
def lenShort (ohl : Word) : Bool := ohl.toNat < OHLMIN
/-- The requested length is above 64 (R64). -/
def lenLong (ohl : Word) : Bool := OHLMAX < ohl.toNat

/-- START's check: some constraint on the requested length is violated (R64, R111). -/
def lenBad (ohl : Word) : Bool := lenOdd ohl || lenShort ohl || lenLong ohl

/-- The error value `{0[20:0], long, short, odd, 0x01}` (R112). -/
def errinfoWord (long short odd : Bool) : Word :=
  0#21 ++ BitVec.ofBool long ++ BitVec.ofBool short ++ BitVec.ofBool odd ++ 0x01#8

/-- The value `ERRINFO` records for a requested length: one bit per violated constraint (R113). -/
def lenErrinfo (ohl : Word) : Word := errinfoWord (lenLong ohl) (lenShort ohl) (lenOdd ohl)

end Sys2Proof.Machine
end

