-- ==== Sys2Proof/Machine/Ops.lean ====
section
/-! DEFINITION. The named operations over memory and registers: the message space, what a host transaction returns, raising
and leaving the one error, the reset transition. -/

namespace Sys2Proof.Machine

/-- The byte placed at an offset of `MSG`, none where the host has placed nothing (log 6). -/
def Memory.read : Memory → Nat → Option Byte
  | [], _ => none
  | (k, v) :: m, a => if a = k then some v else Memory.read m a

/-- The message space with a byte placed at an offset, in the canonical form. -/
def Memory.write : Memory → Nat → Byte → Memory
  | [], a, b => [(a, b)]
  | (k, v) :: m, a, b =>
    if a < k then (a, b) :: (k, v) :: m
    else if a = k then (a, b) :: m
    else (k, v) :: Memory.write m a b

/-- `MemRead(MSG, a, 1)` (20_memory.md R41): the byte the host placed. A byte it never placed is any value, fixed for the run
(U5; log 6). Once the host has changed the message during the run, every byte read is unspecified (R46, U4; log 7). -/
def State.msgByte (s : State) (a : Nat) : Byte :=
  if s.msgBroken then Config.freeMsg s.runs a else (s.MSG.read a).getD (Config.freeMsg s.runs a)

/-- The host places a byte of `MSG` (R40, R58). A change of `MSG[0..LEN-1]` while BUSY breaks the host's duty (R46). -/
def State.placeByte (s : State) (offset : Word) (b : Byte) : State :=
  { s with
    MSG := s.MSG.write offset.toNat b
    msgBroken :=
      s.msgBroken || (s.busy && decide (offset.toNat < s.LEN.toNat) && decide (s.MSG.read offset.toNat ≠ some b)) }

/-- `PHASE <- p` (R8). -/
def State.setPhase (s : State) (p : Phase) : State := { s with PHASE := p }

/-- The list of pending host actions replaced (log 1). -/
def State.setInputs (s : State) (l : List Input) : State := { s with inputs := l }

/-- A read transaction returns a 32-bit value to the host and changes nothing else (R51, R62; log 8). -/
def State.returns (s : State) (v : Word) : State := { s with ret := some v }

/-- A write transaction returns nothing (R51; log 8). -/
def State.returnsNothing (s : State) : State := { s with ret := none }

/-- A read whose value is unspecified: a free value, and the draw counted (U3; log 5). -/
def State.returnsFree (s : State) : State := { s with ret := some (Config.freeRead s.draws), draws := s.draws + 1 }

/-- `raise InvalidParameter({long, short, odd})` (60_exceptions.md R112): the error is recorded, `PHASE` becomes ERROR, and
nothing else changes. -/
def State.raiseInvalidParameter (s : State) (long short odd : Bool) : State :=
  { s with ERRINFO := errinfoWord long short odd, PHASE := .error }

/-- The end of an error or a result by CLEAR (40_host_interface.md R66, R114). -/
def State.toIdle (s : State) : State := { s with ERRINFO := 0, PHASE := .idle }

/-- An accepted START (R64): the error record is cleared and the run begins. The message is fixed from here on (R41), so the
run number of its unwritten bytes advances and the host's duty starts anew (log 6, log 7). -/
def State.beginRun (s : State) : State :=
  { s with ERRINFO := 0, PHASE := .init, runs := s.runs + 1, msgBroken := false }

/-- Slot `k` of the free register values drawn at this reset (U2; log 4). -/
def State.freeSlot (s : State) (k : Nat) : Word := Config.freeAtReset s.draws k

/-- The reset transition (70_reset_and_hazards.md R130, R131): the control registers take their reset values and the data
registers are unspecified, so each is a free value (log 4). `MSG` and `IV` are not the engine's registers (log 18). -/
def State.applyReset (s : State) : State :=
  { s with
    PHASE := .idle
    ERRINFO := 0
    LEN := 0
    OHL := 0
    HLEN := 0
    BLK := s.freeSlot 0
    RND := (s.freeSlot 1).setWidth 2
    CTR := s.freeSlot 2
    ACCLEN := (s.freeSlot 3).setWidth 6
    S := Vector.ofFn fun j : Fin 4 => s.freeSlot (4 + j.val)
    W := Vector.ofFn fun j : Fin 4 => s.freeSlot (8 + j.val)
    BASE := Vector.ofFn fun j : Fin 16 => (s.freeSlot (16 + j.val)).setWidth 8
    ACC := Vector.ofFn fun j : Fin 32 => (s.freeSlot (32 + j.val)).setWidth 8
    HEX := Vector.ofFn fun j : Fin 64 => (s.freeSlot (64 + j.val)).setWidth 8
    ret := none
    draws := s.draws + 1 }

end Sys2Proof.Machine
end

