-- ==== Sys2Proof/Machine/Command.lean ====
section
/-! DEFINITION. The host commands START and CLEAR (40_host_interface.md R64 to R66). -/

namespace Sys2Proof.Machine

/-- START (R64): ignored while BUSY (R65); otherwise the requested length is checked, and the run begins or
`InvalidParameter` is raised with every violated constraint (R113). -/
def execStart (s : State) : Host.Outcome State Fault Refusal :=
  if s.busy then .next s.returnsNothing
  else if lenBad s.OHL then
    .next (s.returnsNothing.raiseInvalidParameter (lenLong s.OHL) (lenShort s.OHL) (lenOdd s.OHL))
  else .next s.returnsNothing.beginRun

/-- CLEAR (R66): ignored while BUSY; otherwise back to IDLE with no error recorded. -/
def execClear (s : State) : Host.Outcome State Fault Refusal :=
  if s.busy then .next s.returnsNothing else .next s.returnsNothing.toIdle

end Sys2Proof.Machine
end

