-- ==== Sys2Proof/Machine/HostRead.lean ====
section
/-! DEFINITION. The read transactions (40_host_interface.md R62, R63; 30_encoding.md R56). A read changes no state of the
engine in any phase; `DATA` is ignored (R51). -/

namespace Sys2Proof.Machine

/-- `RD CMD` returns 0 (R62). -/
def execRdCmd (_d : Word) (s : State) : Host.Outcome State Fault Refusal := .next (s.returns 0)

/-- `RD STATUS` (R62, R28). -/
def execRdStatus (_d : Word) (s : State) : Host.Outcome State Fault Refusal := .next (s.returns s.statusWord)

/-- `RD ERRINFO` (R62, R29). -/
def execRdErrinfo (_d : Word) (s : State) : Host.Outcome State Fault Refusal := .next (s.returns s.ERRINFO)

/-- `RD LEN` (R62). -/
def execRdLen (_d : Word) (s : State) : Host.Outcome State Fault Refusal := .next (s.returns s.LEN)

/-- `RD OHL` (R62). -/
def execRdOhl (_d : Word) (s : State) : Host.Outcome State Fault Refusal := .next (s.returns s.OHL)

/-- `RD HLEN` returns `zext_32(HLEN)` (R62). -/
def execRdHlen (_d : Word) (s : State) : Host.Outcome State Fault Refusal := .next (s.returns (s.HLEN.setWidth 32))

/-- `RD HEX[i]` (R63): `zext_32(HEX[i])` in DONE for `i < HLEN`, else an unspecified value (U3; log 5). -/
def execRdHex (i : BitVec 6) (_d : Word) (s : State) : Host.Outcome State Fault Refusal :=
  if s.PHASE = .done ∧ i.toNat < s.HLEN.toNat then
    .next (s.returns ((s.HEX[i.toNat]'i.isLt).setWidth 32))
  else .next s.returnsFree

/-- `RD r` of a reserved register number returns 0 (R56). -/
def execRdOther (_r : BitVec 7) (_d : Word) (s : State) : Host.Outcome State Fault Refusal := .next (s.returns 0)

end Sys2Proof.Machine
end

