-- ==== Sys2Proof/Machine/HostWrite.lean ====
section
/-! DEFINITION. The write transactions other than START and CLEAR (40_host_interface.md R61; 30_encoding.md R55, R56). -/

namespace Sys2Proof.Machine

/-- A reserved command is ignored: no register changes, no error is raised (R55). -/
def execWrCmd (_v : Word) (s : State) : Host.Outcome State Fault Refusal := .next s.returnsNothing

/-- `WR LEN, v` (R61): stored as it is, unless BUSY. -/
def execWrLen (v : Word) (s : State) : Host.Outcome State Fault Refusal :=
  if s.busy then .next s.returnsNothing else .next { s.returnsNothing with LEN := v }

/-- `WR OHL, v` (R61): stored as it is, without any check, unless BUSY. -/
def execWrOhl (v : Word) (s : State) : Host.Outcome State Fault Refusal :=
  if s.busy then .next s.returnsNothing else .next { s.returnsNothing with OHL := v }

/-- A write to a read-only or reserved register is ignored (R56). -/
def execWrOther (_r : BitVec 7) (_v : Word) (s : State) : Host.Outcome State Fault Refusal := .next s.returnsNothing

end Sys2Proof.Machine
end

