-- ==== Sys2Proof/Machine/StageA.lean ====
section
/-! DEFINITION. Stage A, the state initializer (41_stage_a_init.md). -/

namespace Sys2Proof.Machine

/-- INIT (R75, R76): the state words from `IV` and `LEN`, the loop and Stage D registers cleared; an empty message goes
straight to Stage C. -/
def execInit (s : State) : Host.Outcome State Fault Refusal :=
  .next { s with
    S := stageA s.IV s.LEN
    BLK := 0
    RND := 0
    CTR := 0
    ACCLEN := 0
    HLEN := 0
    PHASE := if s.LEN = 0 then .fin else .load }

end Sys2Proof.Machine
end

