-- ==== Sys2Proof/Machine/StageB.lean ====
section
/-! DEFINITION. Stage B, the block-mixing stage (42_stage_b_block.md). -/

namespace Sys2Proof.Machine

/-- LOAD (R80, R81): block `BLK`, padded if partial, as four big-endian words; every block starts at round 0. A block that
starts above `LEN` would read offsets that do not exist (R41; log 10). -/
def execLoad (s : State) : Host.Outcome State Fault Refusal :=
  if s.LEN.toNat < BLKBYTES * s.BLK.toNat then .fault .msgOffset
  else .next { s with W := loadblock s.msgByte s.LEN.toNat s.BLK.toNat, RND := 0, PHASE := .wmix }

/-- WMIX (R82, R83): one word mixing pass. -/
def execWmix (s : State) : Host.Outcome State Fault Refusal :=
  .next { s with W := wmix s.S s.W, PHASE := .supd }

/-- SUPD's loop control (R85): the next round of the block, the next block, or Stage C. The incremented block index is
tested without 32-bit overflow. -/
def State.nextRound (s : State) : State :=
  if s.RND.toNat < 3 then { s with RND := s.RND + 1, PHASE := .wmix }
  else { s with
    BLK := s.BLK + 1
    PHASE := if BLKBYTES * (s.BLK.toNat + 1) < s.LEN.toNat then .load else .fin }

/-- SUPD (R84, R85): one state update pass, then the loop control. -/
def execSupd (s : State) : Host.Outcome State Fault Refusal :=
  .next { s with S := supd s.S s.W s.RND.toNat }.nextRound

end Sys2Proof.Machine
end

