-- ==== Sys2Proof/Machine/StageC.lean ====
section
/-! DEFINITION. Stage C, the finalization stage (43_stage_c_final.md). -/

namespace Sys2Proof.Machine

/-- FIN (R90, R91): the base digest. -/
def execFin (s : State) : Host.Outcome State Fault Refusal :=
  .next { s with BASE := stageC s.S, PHASE := .xpnd }

end Sys2Proof.Machine
end

