-- ==== Sys2Proof/Machine/StageD.lean ====
section
/-! DEFINITION. Stage D, the output expander (44_stage_d_expand.md). -/

namespace Sys2Proof.Machine

/-- XPND (R95, R96): one chunk appended, the counter advanced, and the loop test made with the new `ACCLEN`. With `ACCLEN`
above 16 the chunk would be written above `ACC[31]` (R35; log 11). -/
def execXpnd (s : State) : Host.Outcome State Fault Refusal :=
  if 16 < s.ACCLEN.toNat then .fault .accIndex
  else .next { s with
    ACC := appendChunk s.ACC s.ACCLEN.toNat (chunk s.BASE s.CTR)
    ACCLEN := s.ACCLEN + 16
    CTR := add32 s.CTR 1
    PHASE := if needed s.OHL.toNat ≤ s.ACCLEN.toNat + 16 then .emit else .xpnd }

/-- The result registers with the characters of `H` written at `HEX[0..]`; the rest keep their bits (R98). -/
def writeHex (hex : Vector Byte 64) (H : List Byte) : Vector Byte 64 :=
  Vector.ofFn fun k : Fin 64 => H[k.val]?.getD hex[k]

/-- EMIT (R98, R99): both truncations, the hex text, the end of the run. A character that does not exist cannot be copied
(log 12): this is met exactly when `OHL` is odd or above 64. -/
def execEmit (s : State) : Host.Outcome State Fault Refusal :=
  if (hexString s.ACC.toList s.OHL.toNat).length < s.OHL.toNat then .fault .hexIndex
  else .next { s with
    HEX := writeHex s.HEX (hexString s.ACC.toList s.OHL.toNat)
    HLEN := s.OHL.setWidth 7
    PHASE := .done }

end Sys2Proof.Machine
end

