-- ==== Sys2Proof/Machine/Dispatch.lean ====
section
/-! DEFINITION. One arm per instruction: its meaning. -/

namespace Sys2Proof.Machine

def exec (i : Instr) (s : State) : Host.Outcome State Fault Refusal :=
  match i with
  -- host commands (R64 to R66)
  | .start => Sys2Proof.Machine.execStart s
  | .clear => Sys2Proof.Machine.execClear s
  -- host writes (R55, R56, R61)
  | .wrCmd v => Sys2Proof.Machine.execWrCmd v s
  | .wrLen v => Sys2Proof.Machine.execWrLen v s
  | .wrOhl v => Sys2Proof.Machine.execWrOhl v s
  | .wrOther r v => Sys2Proof.Machine.execWrOther r v s
  -- host reads (R56, R62, R63)
  | .rdCmd d => Sys2Proof.Machine.execRdCmd d s
  | .rdStatus d => Sys2Proof.Machine.execRdStatus d s
  | .rdErrinfo d => Sys2Proof.Machine.execRdErrinfo d s
  | .rdLen d => Sys2Proof.Machine.execRdLen d s
  | .rdOhl d => Sys2Proof.Machine.execRdOhl d s
  | .rdHlen d => Sys2Proof.Machine.execRdHlen d s
  | .rdHex i6 d => Sys2Proof.Machine.execRdHex i6 d s
  | .rdOther r d => Sys2Proof.Machine.execRdOther r d s
  -- micro-operations (R75 to R99)
  | .init => Sys2Proof.Machine.execInit s
  | .load => Sys2Proof.Machine.execLoad s
  | .wmix => Sys2Proof.Machine.execWmix s
  | .supd => Sys2Proof.Machine.execSupd s
  | .fin => Sys2Proof.Machine.execFin s
  | .xpnd => Sys2Proof.Machine.execXpnd s
  | .emit => Sys2Proof.Machine.execEmit s

end Sys2Proof.Machine
end

