-- ==== Sys2Proof/Machine/Agents.lean ====
section
/-! DEFINITION. The two agents and whose turn it is (10_state.md R20, 40_host_interface.md R67, log 1). -/

namespace Sys2Proof.Machine

/-- One engine turn (R67): the micro-operation that `PHASE` selects, or nothing at all in IDLE, DONE and ERROR (log 9). -/
def State.engineTurn (s : State) : Host.Outcome State Fault Refusal :=
  match decode (.uop s.PHASE.code) with
  | .ok i => exec i s
  | .error _ => .next s

/-- One host transaction: the host word is decoded and performed whole (R44, R50). -/
def State.hostTurn (s : State) (w : HostWord) : Host.Outcome State Fault Refusal := exec (decodeHost w) s

/-- One poll of WAIT (R58): `RD STATUS`; while `BUSY` = 1 the engine takes a step and the host polls again (log 15). -/
def State.waitTurn (s : State) (rest : List Input) : Host.Outcome State Fault Refusal :=
  exec (.rdStatus 0) (s.setInputs (if s.busy then .engine :: .wait :: rest else rest))

/-- The next thing that happens: the head of the host's list, or the engine's turn when the host is silent (log 1). -/
def State.turn (s : State) : Host.Outcome State Fault Refusal :=
  match s.inputs with
  | [] => s.engineTurn
  | .engine :: rest => (s.setInputs rest).engineTurn
  | .word w :: rest => (s.setInputs rest).hostTurn w
  | .wait :: rest => s.waitTurn rest
  | .place offset b :: rest => .next ((s.setInputs rest).placeByte offset b)
  | .rst :: rest => .next (s.setInputs rest).applyReset

/-- The state in which the next step runs the operation of the table's word `w` (log 16, log 17): a host word becomes the
host's next transaction, a `PHASE` code becomes the sequencer's phase with the engine's turn next. -/
def State.fetching (s : State) (nbits w : Nat) : State :=
  if nbits ≤ 8 then
    match Phase.ofCode (BitVec.ofNat 4 w) with
    | some p => (s.setPhase p).setInputs (.engine :: s.inputs)
    | none => s
  else s.setInputs (.word (BitVec.ofNat 40 w) :: s.inputs)

end Sys2Proof.Machine
end

