-- ==== Sys2Proof/Machine/Step.lean ====
section
/-! DEFINITION. One step of the machine, and where the host's checks put an instruction to be run. -/

namespace Sys2Proof.Machine

/-- One step: one host transaction, one engine step, or one other action of the outside world (R20, R67; log 1). -/
def step (s : State) : Host.Outcome State Fault Refusal := s.turn

/-- `s` with the operation of the table's word `w` as the very next one to run (log 16). -/
def State.withFetchWord (s : State) (nbits w : Nat) : State := s.fetching nbits w

end Sys2Proof.Machine
end

