-- ==== Sys2Proof/Machine/Contract.lean ====
section
/-! DEFINITION. The contract `digest` as a function of the message (40_host_interface.md R60), its step count (R141), and the
host's pseudo-operations (30_encoding.md R58, R69). The step function uses none of this: it is what a run is held against. -/

namespace Sys2Proof.Machine

/-- One block folded into the state: its words, then four rounds of the two passes (R60, R85). -/
def absorbBlock (M : Nat → Byte) (len : Nat) (S : Vector Word 4) (k : Nat) : Vector Word 4 :=
  ((List.range 4).foldl (fun p r => (supd p.1 (wmix p.1 p.2) r, wmix p.1 p.2)) (S, loadblock M len k)).1

/-- Stage B over all blocks, in sequence (R60, R86). -/
def absorb (M : Nat → Byte) (len : Nat) (S : Vector Word 4) : Vector Word 4 :=
  (List.range (nblk len)).foldl (absorbBlock M len) S

/-- Stage D's loop (R60): chunks are appended while fewer than `need` bytes stand. Each iteration adds 16 bytes, so `need`
iterations always suffice as `fuel`. -/
def accumulate (base : Vector Byte 16) (need : Nat) : Nat → Word → List Byte → List Byte
  | 0, _, acc => acc
  | fuel + 1, ctr, acc =>
    if acc.length < need then accumulate base need fuel (add32 ctr 1) (acc ++ (chunk base ctr).toList) else acc

/-- The hex string of a message for a valid length (R60). -/
def digestText (iv : Vector Word 4) (M : Nat → Byte) (len ohl : Word) : List Byte :=
  let base := stageC (absorb M len.toNat (stageA iv len))
  hexString (accumulate base (needed ohl.toNat) (needed ohl.toNat) 0 []) ohl.toNat

/-- `digest(M, n)` (R60): `InvalidParameter` with the violated constraints, or `n` hex characters. -/
def digest (iv : Vector Word 4) (M : Nat → Byte) (len ohl : Word) : Except Word (List Byte) :=
  if lenBad ohl then .error (lenErrinfo ohl) else .ok (digestText iv M len ohl)

/-- `steps(L, n) = 3 + 9 * ceil(L/16) + ceil(n/32)` (R68, R141). -/
def stepCount (len ohl : Nat) : Nat := 3 + 9 * nblk len + (ohl + 31) / 32

/-- The host word of an instruction the host issues; none for a micro-operation (R58). -/
def hostInput (i : Instr) : List Input :=
  match encode i with
  | .host w => [.word w]
  | .uop _ => []

/-- `MSG <bytes>`: the host places these bytes at `MSG[0..]` (R58). -/
def placeMessage (bytes : List Byte) : List Input :=
  bytes.zipIdx.map fun p => Input.place (BitVec.ofNat 32 p.2) p.1

/-- `DIGEST L, n` up to the status read (R58, R69). -/
def digestCall (len ohl : Word) : List Input :=
  hostInput (.wrLen len) ++ hostInput (.wrOhl ohl) ++ hostInput .start ++ [.wait] ++ hostInput (.rdStatus 0)

/-- The rest of `DIGEST L, n`, chosen by the host from the status it read (R69): with `DONE` = 1 the length and the
characters, with `ERR` = 1 the error record. -/
def digestReads (status : Word) (n : Nat) : List Input :=
  if status.getLsbD 5 then
    hostInput (.rdHlen 0) ++ (List.range n).flatMap fun k => hostInput (.rdHex (BitVec.ofNat 6 k) 0)
  else if status.getLsbD 6 then hostInput (.rdErrinfo 0)
  else []

end Sys2Proof.Machine
end

