-- ==== Sys2Proof/Safety.lean ====
section
/-! DEFINITION. What is true of every state a run reaches, and what of a state the host and the engine share: the terms the
statements use. -/

namespace Sys2Proof.Machine

/-- `n` is a valid requested length: even and in 2..64 (60_exceptions.md R111). -/
def validLen (n : Nat) : Prop := n % 2 = 0 ∧ 2 ≤ n ∧ n ≤ 64

/-- `b` is the ASCII code of a lowercase hex digit, `/[0-9a-f]/` (R16, R70). -/
def isHexChar (b : Byte) : Prop := (0x30 ≤ b.toNat ∧ b.toNat ≤ 0x39) ∨ (0x61 ≤ b.toNat ∧ b.toNat ≤ 0x66)

/-- The ASCII code of the character at position `v` of the alphabet `0123456789abcdef` (R16), read off the alphabet itself. -/
def asciiHex (v : Nat) : Nat := ("0123456789abcdef".toList.getD v ' ').toNat

/-- The error values `ERRINFO` can hold besides 0 (R29). -/
def errorValues : List Word := [0x101#32, 0x201#32, 0x301#32, 0x401#32, 0x501#32]

/-- The block loop's place: block `BLK` exists, `16 * BLK < LEN` (R80, R85). -/
def State.inBlock (s : State) : Prop := 16 * s.BLK.toNat < s.LEN.toNat

/-- The block loop is over: `BLK = NBLK` (R85, R86). -/
def State.blocksDone (s : State) : Prop := s.BLK.toNat = nblk s.LEN.toNat

/-- What the registers of each phase hold, from the transition rules R76, R81, R83, R85, R91, R96, R99. -/
def State.phaseInv (s : State) : Prop :=
  match s.PHASE with
  | .idle | .init | .error => True
  | .load | .wmix | .supd => s.inBlock ∧ s.CTR = 0 ∧ s.ACCLEN = 0 ∧ s.HLEN = 0
  | .fin => s.blocksDone ∧ s.CTR = 0 ∧ s.ACCLEN = 0 ∧ s.HLEN = 0
  | .xpnd =>
    s.blocksDone ∧ s.HLEN = 0 ∧ s.ACCLEN.toNat = 16 * s.CTR.toNat ∧ s.CTR.toNat ≤ 1 ∧ s.ACCLEN.toNat < needed s.OHL.toNat
  | .emit =>
    s.blocksDone ∧ s.HLEN = 0 ∧ s.ACCLEN.toNat = 16 * s.CTR.toNat ∧ s.CTR.toNat ≤ 2 ∧ needed s.OHL.toNat ≤ s.ACCLEN.toNat
  | .done => validLen s.HLEN.toNat ∧ ∀ k : Fin 64, k.val < s.HLEN.toNat → isHexChar s.HEX[k]

/-- The invariant of every run, whatever the host does: the message space is canonical, an error is recorded exactly in
ERROR (R29), `HLEN` is even and at most 64 (R32), a running digest has a valid length (R64), and each phase's registers are
as the transitions leave them. -/
structure State.Inv (s : State) : Prop where
  msg : s.MSG.wf
  errinfo : if s.PHASE = .error then s.ERRINFO ∈ errorValues else s.ERRINFO = 0
  hlen : s.HLEN.toNat ≤ 64 ∧ s.HLEN.toNat % 2 = 0
  ohl : s.busy = true → validLen s.OHL.toNat
  phase : s.phaseInv

/-- The state without what only the host's side of the port sees: its pending actions, the last value returned and the count
of free values drawn. Two states with the same view are the same engine with the same message. -/
def State.engineView (s : State) : State := { s with inputs := [], ret := none, draws := 0 }

/-- The phase after `k` engine steps of a run (40_host_interface.md R68): INIT, then LOAD and four times WMIX and SUPD for
each block, then FIN, the XPND iterations and EMIT. -/
def runPhase (len ohl k : Nat) : Phase :=
  if k = 0 then .init
  else if k ≤ 9 * nblk len then
    if (k - 1) % 9 = 0 then .load else if (k - 1) % 9 % 2 = 1 then .wmix else .supd
  else if k = 9 * nblk len + 1 then .fin
  else if k ≤ 9 * nblk len + 1 + (ohl + 31) / 32 then .xpnd
  else .emit

/-- The successors of a phase by an engine step (10_state.md R24). -/
def Phase.engineSuccessors : Phase → List Phase
  | .init => [.load, .fin]
  | .load => [.wmix]
  | .wmix => [.supd]
  | .supd => [.wmix, .load, .fin]
  | .fin => [.xpnd]
  | .xpnd => [.xpnd, .emit]
  | .emit => [.done]
  | .idle | .done | .error => []

/-- The successors of a phase by a host command (10_state.md R24). -/
def Phase.hostSuccessors : Phase → List Phase
  | .idle => [.init, .error]
  | .done | .error => [.init, .error, .idle]
  | .init | .load | .wmix | .supd | .fin | .xpnd | .emit => []

end Sys2Proof.Machine
end

