-- ==== Sys2Proof/Certificates/Slice0/Obligations.lean ====
section
/-! DEFINITION. The statements for the provers. -/

open Sys2Proof Sys2Proof.Machine

/-! ### Encoding -/

/-- Sanity: words written out bit by bit from 30_encoding.md R51, R53 and R54 decode to what they stand for. -/
def Obligations.SampleWordsDecode : Prop :=
  decode (.host 0b1000000000000000000000000000000000000001#40) = .ok .start ∧
  decode (.host 0b1000000000000000000000000000000000000010#40) = .ok .clear ∧
  decode (.host 0b1000001100000000000000000000000000010001#40) = .ok (.wrLen 17) ∧
  decode (.host 0b1000010000000000000000000000000000100000#40) = .ok (.wrOhl 32) ∧
  decode (.host 0b0000000100000000000000000000000000000000#40) = .ok (.rdStatus 0) ∧
  decode (.host 0b0100011100000000000000000000000000000000#40) = .ok (.rdHex 7 0) ∧
  decode (.uop 0b0001#4) = .ok .init ∧ decode (.uop 0b0010#4) = .ok .load ∧ decode (.uop 0b0011#4) = .ok .wmix ∧
  decode (.uop 0b0100#4) = .ok .supd ∧ decode (.uop 0b0101#4) = .ok .fin ∧ decode (.uop 0b0110#4) = .ok .xpnd ∧
  decode (.uop 0b0111#4) = .ok .emit

/-- Decoding the code word of any well-formed instruction gives the instruction back, every operand at every value. -/
def Obligations.DecodeUndoesEncode : Prop :=
  ∀ i : Instr, i.wf = true → decode (encode i) = .ok i

/-- The decoder gives the first row of the opcode map that matches, and every word matches some row (R53); the instruction keeps
every bit of its word: it is well-formed and its code word is the word it came from. That this last holds of reads too is the
model's choice: R51 says `DATA` of a read is ignored, and the model keeps it as an operand that no meaning uses (log 14). -/
def Obligations.HostDecodeFollowsOpcodeMap : Prop :=
  ∀ w : HostWord, firstHostRow w < 14 ∧ (decodeHost w).row = firstHostRow w ∧ (decodeHost w).isHost = true ∧
    (decodeHost w).wf = true ∧ encode (decodeHost w) = .host w

/-! ### Steps and turns -/

/-- A step runs the decoded instruction: the host word at the head of the host's list, or the operation that `PHASE` selects
when the host is silent or gives the engine its turn (R44, R50, R67). Whose turn it is is the model's choice (log 1): the head of
`inputs` acts next, and an empty list gives the engine its turn. -/
def Obligations.StepRunsDecodedInstruction : Prop :=
  (∀ (s : State) (w : HostWord) (rest : List Input) (i : Instr),
    s.inputs = .word w :: rest → decode (.host w) = .ok i → step s = exec i { s with inputs := rest }) ∧
  (∀ (s : State) (i : Instr), s.inputs = [] → decode (.uop s.PHASE.code) = .ok i → step s = exec i s) ∧
  (∀ (s : State) (rest : List Input) (i : Instr),
    s.inputs = .engine :: rest → decode (.uop s.PHASE.code) = .ok i → step s = exec i { s with inputs := rest })

/-- `PHASE` selects the micro-operation of the next engine step (R24, R54); an empty `inputs` is the engine's turn (log 1).
In IDLE, DONE and ERROR there is none and nothing changes (R67, R120): that a step there answers the same state,
rather than stopping, is the model's reading (log 9). Codes 9 to 14 are unreachable (R24, R54): that the decoder
rejects them by name is the model's reading too (log 13). -/
def Obligations.PhaseSelectsMicroOperation : Prop :=
  (∀ s : State, s.inputs = [] → step s =
    match s.PHASE with
    | .init => exec .init s
    | .load => exec .load s
    | .wmix => exec .wmix s
    | .supd => exec .supd s
    | .fin => exec .fin s
    | .xpnd => exec .xpnd s
    | .emit => exec .emit s
    | .idle | .done | .error => .next s) ∧
  (∀ p : Phase, p.code.toNat =
    match p with
    | .idle => 0 | .init => 1 | .load => 2 | .wmix => 3 | .supd => 4 | .fin => 5 | .xpnd => 6 | .emit => 7
    | .done => 8 | .error => 15) ∧
  ∀ c : BitVec 4, 9 ≤ c.toNat → c.toNat ≤ 14 → decode (.uop c) = .error (.unreachableCode c)

/-- Where the host's checks put an instruction (the model's own convention, log 16): the very next step runs it. -/
def Obligations.FetchWordRunsNext : Prop :=
  (∀ (s : State) (w : Nat), w < 2 ^ 40 → step (s.withFetchWord 40 w) = exec (decodeHost (BitVec.ofNat 40 w)) s) ∧
  ∀ (s : State) (p : Phase) (i : Instr), decode (.uop p.code) = .ok i →
    step (s.withFetchWord 8 p.code.toNat) = exec i { s with PHASE := p }

/-- One poll of WAIT (R58; how it alternates with engine steps is the model's convention, log 15): the status is returned;
while `BUSY` = 1 the engine's turn and another poll follow. -/
def Obligations.WaitPollsStatus : Prop :=
  ∀ (s : State) (rest : List Input), s.inputs = .wait :: rest →
    (s.busy = true → step s = .next { s with ret := some s.statusWord, inputs := .engine :: .wait :: rest }) ∧
    (s.busy = false → step s = .next { s with ret := some s.statusWord, inputs := rest })

/-! ### Reset -/

/-- R39, R130: the registers with a reset value hold it in the reset state, and after a reset transition from any state;
`STATUS` reads 0 and both pins are 0. That `MSG` and `IV` stay and the port returns nothing is the model's choice (log 18). -/
def Obligations.ResetLeavesIdle : Prop :=
  (State.reset.PHASE = .idle ∧ State.reset.ERRINFO = 0 ∧ State.reset.LEN = 0 ∧ State.reset.OHL = 0 ∧
    State.reset.HLEN = 0 ∧ State.reset.statusWord = 0 ∧ State.reset.doneBit = false ∧ State.reset.errBit = false) ∧
  ∀ (s : State) (rest : List Input), s.inputs = .rst :: rest → ∃ t, step s = .next t ∧
    t.PHASE = .idle ∧ t.ERRINFO = 0 ∧ t.LEN = 0 ∧ t.OHL = 0 ∧ t.HLEN = 0 ∧ t.statusWord = 0 ∧ t.doneBit = false ∧
    t.errBit = false ∧ t.MSG = s.MSG ∧ t.IV = s.IV ∧ t.inputs = rest ∧ t.ret = none

/-! ### Whole-machine rules -/

/-- The invariant of every run holds at reset. -/
def Obligations.RunInvariantAtReset : Prop := State.reset.Inv

/-- R67, R117: from every state that meets the invariant, whatever the host does next, a step neither faults nor is refused,
and it keeps the invariant. -/
def Obligations.EveryStepKeepsRunInvariant : Prop :=
  ∀ s : State, s.Inv → ∃ t, step s = .next t ∧ t.Inv

/-- Every step keeps the message space in its canonical form, in every state. -/
def Obligations.EveryStepKeepsMessageCanonical : Prop :=
  ∀ s t : State, s.MSG.wf → step s = .next t → t.MSG.wf

/-- The frame of all instructions (R8, R40, R37): none writes the message, at any offset, or `IV`, or the host's pending
actions. -/
def Obligations.InstructionsNeverWriteMessage : Prop :=
  ∀ (i : Instr) (s t : State), exec i s = .next t →
    (∀ a, t.MSG.read a = s.MSG.read a) ∧ t.MSG = s.MSG ∧ t.IV = s.IV ∧ t.inputs = s.inputs

/-- The frame of all instructions, register by register (10_state.md section 1, "who writes"): each register changes only
under the instructions that the spec names as its writers. -/
def Obligations.RegistersChangeOnlyUnderTheirWriters : Prop :=
  ∀ (i : Instr) (s t : State), exec i s = .next t →
    (t.S ≠ s.S → i = .init ∨ i = .supd) ∧
    (t.W ≠ s.W → i = .load ∨ i = .wmix) ∧
    (t.PHASE ≠ s.PHASE → i = .start ∨ i = .clear ∨ i.isHost = false) ∧
    (t.BLK ≠ s.BLK → i = .init ∨ i = .supd) ∧
    (t.RND ≠ s.RND → i = .init ∨ i = .load ∨ i = .supd) ∧
    (t.LEN ≠ s.LEN → i = .wrLen t.LEN) ∧
    (t.OHL ≠ s.OHL → i = .wrOhl t.OHL) ∧
    (t.ERRINFO ≠ s.ERRINFO → i = .start ∨ i = .clear) ∧
    (t.BASE ≠ s.BASE → i = .fin) ∧
    (t.CTR ≠ s.CTR → i = .init ∨ i = .xpnd) ∧
    (t.ACC ≠ s.ACC → i = .xpnd) ∧
    (t.ACCLEN ≠ s.ACCLEN → i = .init ∨ i = .xpnd) ∧
    (t.HEX ≠ s.HEX → i = .emit) ∧
    (t.HLEN ≠ s.HLEN → i = .init ∨ i = .emit)

/-- R24: the successors of each phase, by an engine step and by a host transaction. -/
def Obligations.PhaseMovesOnlyToSuccessors : Prop :=
  (∀ s t : State, s.busy = true → s.engineTurn = .next t → t.PHASE ∈ s.PHASE.engineSuccessors) ∧
  ∀ (i : Instr) (s t : State), i.isHost = true → exec i s = .next t → t.PHASE ≠ s.PHASE →
    t.PHASE ∈ s.PHASE.hostSuccessors

/-- The three index faults are met exactly where an operation would touch an index the spec says does not exist, and no
instruction is refused. Stopping there is the model's choice (log 10, log 11, log 12). -/
def Obligations.FaultsExactlyAtMissingIndexes : Prop :=
  ∀ (i : Instr) (s : State),
    (∀ f, exec i s = .fault f ↔
      (i = .load ∧ f = .msgOffset ∧ s.LEN.toNat < 16 * s.BLK.toNat) ∨
      (i = .xpnd ∧ f = .accIndex ∧ 16 < s.ACCLEN.toNat) ∨
      (i = .emit ∧ f = .hexIndex ∧ (s.OHL.toNat % 2 = 1 ∨ 64 < s.OHL.toNat))) ∧
    ∀ r, exec i s ≠ .refused r

/-! ### Arithmetic primitives -/

/-- R9, R10, R11, R14: exact arithmetic, narrowed to the width. -/
def Obligations.WordArithmeticWraps : Prop :=
  ∀ (x y : Word) (a b : Byte),
    (add32 x y).toNat = (x.toNat + y.toNat) % 2 ^ 32 ∧
    (mul32 x y).toNat = x.toNat * y.toNat % 2 ^ 32 ∧
    (∀ s, s ≤ 31 → (shl32 x s).toNat = x.toNat * 2 ^ s % 2 ^ 32 ∧ (shr32 x s).toNat = x.toNat / 2 ^ s) ∧
    (add8 a b).toNat = (a.toNat + b.toNat) % 256

/-- R12: rotation by its formula, the identity for 0 and for 32, and where each bit goes. -/
def Obligations.RotateLeftIsCircular : Prop :=
  ∀ (x : Word) (s : Nat),
    (s % 32 = 0 → rotl32 x s = x) ∧
    (s % 32 ≠ 0 → s ≤ 32 → (rotl32 x s).toNat = x.toNat * 2 ^ s % 2 ^ 32 ||| x.toNat / 2 ^ (32 - s)) ∧
    ∀ k, k < 32 → (rotl32 x s).getLsbD ((k + s) % 32) = x.getLsbD k

/-- R15: four bytes as a big-endian word, and its inverse. -/
def Obligations.BigEndianWords : Prop :=
  (∀ b0 b1 b2 b3 : Byte, (be32 b0 b1 b2 b3).toNat =
    b0.toNat * 2 ^ 24 + b1.toNat * 2 ^ 16 + b2.toNat * 2 ^ 8 + b3.toNat) ∧
  ∀ w : Word, be32 (be32Byte w 0) (be32Byte w 1) (be32Byte w 2) (be32Byte w 3) = w

/-- R16: the digit of a nibble is its character in the alphabet, and a byte is two digits, the high nibble first. -/
def Obligations.HexDigitsAreLowercaseAscii : Prop :=
  (∀ v : BitVec 4, (hexdigit v).toNat = asciiHex v.toNat ∧ isHexChar (hexdigit v)) ∧
  ∀ b : Byte, (hex2 b).map BitVec.toNat = [asciiHex (b.toNat / 16), asciiHex (b.toNat % 16)]

/-! ### Stage A -/

/-- R75, R76: INIT completes in every state; its result and its frame. -/
def Obligations.InitSetsStateFromLength : Prop :=
  ∀ s : State, ∃ t, exec .init s = .next t ∧
    (∀ j : Fin 4, t.S[j].toNat = s.IV[j].toNat ^^^ (s.LEN.toNat * 2 ^ (8 * j.val) % 2 ^ 32)) ∧
    t.PHASE = (if s.LEN.toNat = 0 then .fin else .load) ∧
    t = { s with S := t.S, BLK := 0, RND := 0, CTR := 0, ACCLEN := 0, HLEN := 0, PHASE := t.PHASE }

/-- R77: after INIT, lengths that differ give different `S[0]`; equal lengths and `IV` give equal `S`, whatever the message. -/
def Obligations.InitSeparatesLengths : Prop :=
  ∀ s t s' t' : State, exec .init s = .next s' → exec .init t = .next t' → s.IV = t.IV →
    (s.LEN ≠ t.LEN → s'.S[0] ≠ t'.S[0]) ∧ (s.LEN = t.LEN → s'.S = t'.S)

/-! ### Stage B -/

/-- R80, R81: LOAD completes where a block exists. Byte `4j + k` of the block is byte `k` of word `j`, big-endian: the message
byte, or the filler. Its frame. -/
def Obligations.LoadFormsPaddedBlock : Prop :=
  ∀ s : State, 16 * s.BLK.toNat < s.LEN.toNat → ∃ t, exec .load s = .next t ∧
    (∀ j k : Fin 4, t.W[j].toNat / 2 ^ (24 - 8 * k.val) % 256 =
      if 16 * s.BLK.toNat + (4 * j.val + k.val) < s.LEN.toNat then
        (s.msgByte (16 * s.BLK.toNat + (4 * j.val + k.val))).toNat
      else (16 - (s.LEN.toNat - 16 * s.BLK.toNat)) * 31 % 256) ∧
    t = { s with W := t.W, RND := 0, PHASE := .wmix }

/-- R41, R44: LOAD reads the offsets `16k .. min(16k+15, LEN-1)` of block `k` and no other. -/
def Obligations.LoadReadsOnlyItsWindow : Prop :=
  ∀ s t s' t' : State, exec .load s = .next s' → exec .load t = .next t' → s.BLK = t.BLK → s.LEN = t.LEN →
    (∀ a, 16 * s.BLK.toNat ≤ a → a ≤ 16 * s.BLK.toNat + 15 → a < s.LEN.toNat → s.msgByte a = t.msgByte a) →
    s'.W = t'.W

/-- The bytes the host placed are what LOAD reads while the message is unchanged (R41, R46), for a full block and for a partial
final one, whose rest is the filler (R80): the words are big-endian (R42), and nothing else changes. -/
def Obligations.PlacedMessageIsWhatLoadReads : Prop :=
  ∀ s : State, s.msgBroken = false → 16 * s.BLK.toNat < s.LEN.toNat → ∀ P : Fin 16 → Byte,
    (∀ k : Fin 16, 16 * s.BLK.toNat + k.val < s.LEN.toNat → s.MSG.read (16 * s.BLK.toNat + k.val) = some (P k)) →
      let B : Fin 16 → Byte := fun k =>
        if 16 * s.BLK.toNat + k.val < s.LEN.toNat then P k
        else BitVec.ofNat 8 ((16 - (s.LEN.toNat - 16 * s.BLK.toNat)) * 31 % 256)
      exec .load s = .next { s with
        W := #v[be32 (B 0) (B 1) (B 2) (B 3), be32 (B 4) (B 5) (B 6) (B 7), be32 (B 8) (B 9) (B 10) (B 11),
          be32 (B 12) (B 13) (B 14) (B 15)]
        RND := 0
        PHASE := .wmix }

/-- R82, R83: WMIX completes in every state: the four sequential updates, step 3 reading the new `W[0]`, and its frame. -/
def Obligations.WmixMixesSequentially : Prop :=
  ∀ s : State,
    let w0 := (s.W[0] + s.S[0] + 0x00000000#32).rotateLeft (s.W[0].toNat / 2 ^ 24 % 31 + 1) ^^^ (s.W[1] * 0x5BD1E995#32)
    let w1 := (s.W[1] + s.S[1] + 0x9E3779B1#32).rotateLeft (s.W[1].toNat / 2 ^ 24 % 31 + 1) ^^^ (s.W[2] * 0x5BD1E995#32)
    let w2 := (s.W[2] + s.S[2] + 0x3C6EF362#32).rotateLeft (s.W[2].toNat / 2 ^ 24 % 31 + 1) ^^^ (s.W[3] * 0x5BD1E995#32)
    let w3 := (s.W[3] + s.S[3] + 0xDAA66D13#32).rotateLeft (s.W[3].toNat / 2 ^ 24 % 31 + 1) ^^^ (w0 * 0x5BD1E995#32)
    exec .wmix s = .next { s with W := #v[w0, w1, w2, w3], PHASE := .supd }

/-- R84, R85: SUPD completes in every state: the four sequential updates with the amounts `7r + 3j`, step 3 reading the new
`S[0]`, then the loop control, and its frame. -/
def Obligations.SupdUpdatesSequentially : Prop :=
  ∀ s : State,
    let r := s.RND.toNat
    let s0 := (s.S[0] + s.W[0]).rotateLeft (7 * r) ^^^ (s.S[1] + 0x6A09E667#32)
    let s1 := (s.S[1] + s.W[1]).rotateLeft (7 * r + 3) ^^^ (s.S[2] + 0x6A09E667#32)
    let s2 := (s.S[2] + s.W[2]).rotateLeft (7 * r + 6) ^^^ (s.S[3] + 0x6A09E667#32)
    let s3 := (s.S[3] + s.W[3]).rotateLeft (7 * r + 9) ^^^ (s0 + 0x6A09E667#32)
    (r < 3 → exec .supd s =
      .next { s with S := #v[s0, s1, s2, s3], RND := BitVec.ofNat 2 (r + 1), PHASE := .wmix }) ∧
    (r = 3 → exec .supd s =
      .next { s with
        S := #v[s0, s1, s2, s3]
        BLK := BitVec.ofNat 32 (s.BLK.toNat + 1)
        PHASE := if 16 * (s.BLK.toNat + 1) < s.LEN.toNat then .load else .fin })

/-! ### Stage C -/

/-- R90, R91: FIN completes in every state: byte `4j + k` of the base digest is byte `k` of output word `j`, big-endian; the
words by shifts and no rotation; its frame. -/
def Obligations.FinPacksShiftedWords : Prop :=
  ∀ s : State, ∃ t, exec .fin s = .next t ∧
    (∀ j k : Fin 4, (t.BASE[4 * j.val + k.val]'(by omega)).toNat =
      (#v[s.S[0] ^^^ (s.S[1] <<< 5) ^^^ (s.S[2] >>> 7), s.S[1] ^^^ (s.S[2] <<< 3) ^^^ (s.S[3] >>> 11),
          s.S[2] ^^^ (s.S[3] <<< 7) ^^^ (s.S[0] >>> 13), s.S[3] ^^^ (s.S[0] <<< 11) ^^^ (s.S[1] >>> 3)] :
        Vector Word 4)[j].toNat / 2 ^ (24 - 8 * k.val) % 256) ∧
    t = { s with BASE := t.BASE, PHASE := .xpnd }

/-! ### Stage D -/

/-- R95, R96: XPND completes where `ACC[ACCLEN .. ACCLEN+15]` exists: the chunk (exclusive or, then addition, then 8 bits),
the counter, the loop test, and its frame, which leaves every other byte of `ACC` alone. -/
def Obligations.XpndAppendsChunk : Prop :=
  ∀ s : State, s.ACCLEN.toNat ≤ 16 → ∃ t, exec .xpnd s = .next t ∧
    (∀ idx : Fin 16, (t.ACC[s.ACCLEN.toNat + idx.val]?).map BitVec.toNat =
      some (((s.BASE[idx].toNat ^^^ (s.CTR.toNat / 2 ^ (8 * (idx.val % 4)) % 256)) + 0xA3) % 256)) ∧
    (∀ k : Fin 32, k.val < s.ACCLEN.toNat ∨ s.ACCLEN.toNat + 16 ≤ k.val → t.ACC[k] = s.ACC[k]) ∧
    t.ACCLEN.toNat = s.ACCLEN.toNat + 16 ∧
    t.CTR.toNat = (s.CTR.toNat + 1) % 2 ^ 32 ∧
    t.PHASE = (if s.OHL.toNat / 2 ≤ s.ACCLEN.toNat + 16 then .emit else .xpnd) ∧
    t = { s with ACC := t.ACC, ACCLEN := t.ACCLEN, CTR := t.CTR, PHASE := t.PHASE }

/-- R98, R99: EMIT completes for every even length up to 64: two characters a byte, high nibble first, no character at or
above `OHL` written, `HLEN`, the end of the run, and its frame. -/
def Obligations.EmitWritesHexText : Prop :=
  ∀ s : State, s.OHL.toNat % 2 = 0 → s.OHL.toNat ≤ 64 → ∃ t, exec .emit s = .next t ∧
    (∀ i : Fin 32, 2 * i.val < s.OHL.toNat →
      (t.HEX[2 * i.val]'(by omega)).toNat = asciiHex (s.ACC[i].toNat / 16) ∧
      (t.HEX[2 * i.val + 1]'(by omega)).toNat = asciiHex (s.ACC[i].toNat % 16)) ∧
    (∀ k : Fin 64, s.OHL.toNat ≤ k.val → t.HEX[k] = s.HEX[k]) ∧
    t.HLEN.toNat = s.OHL.toNat ∧ t.PHASE = .done ∧
    t = { s with HEX := t.HEX, HLEN := t.HLEN, PHASE := t.PHASE }

/-! ### Host commands and transactions -/

/-- R111: START's check accepts exactly 2, 4, 6, ..., 64; the document's examples 3, 0 and 66 fail. -/
def Obligations.ValidLengthsAreEvenTwoToSixtyFour : Prop :=
  (∀ n : Word, lenBad n = false ↔ (n.toNat % 2 = 0 ∧ 2 ≤ n.toNat ∧ n.toNat ≤ 64)) ∧
  (∀ n : Word, lenBad n = false ↔ ∃ k : Nat, k < 32 ∧ n.toNat = 2 * (k + 1)) ∧
  lenBad 3 = true ∧ lenBad 0 = true ∧ lenBad 66 = true

/-- From R64: START completes in every state. An accepted START begins a run; a rejected one records the violated constraints and
changes nothing else of the engine; while BUSY it is ignored (R65). That a write leaves `ret` empty and what begins a run
besides (`runs`, `msgBroken`) is the model's bookkeeping (log 6, log 7, log 8). -/
def Obligations.StartChecksLengthAndBegins : Prop :=
  ∀ s : State,
    (s.busy = true → exec .start s = .next { s with ret := none }) ∧
    (s.busy = false → validLen s.OHL.toNat → exec .start s =
      .next { s with ERRINFO := 0, PHASE := .init, ret := none, runs := s.runs + 1, msgBroken := false }) ∧
    (s.busy = false → ¬ validLen s.OHL.toNat → exec .start s =
      .next { s with
        ERRINFO := BitVec.ofNat 32 (1 + (if s.OHL.toNat % 2 = 1 then 0x100 else 0) +
          (if s.OHL.toNat < 2 then 0x200 else 0) + (if 64 < s.OHL.toNat then 0x400 else 0))
        PHASE := .error
        ret := none })

/-- R112, R113: the error entry, by the rows of R113's map from `OHL` to `ERRINFO`; `STATUS` then reads 0x4F and pin `err` is
1, pin `done` 0; every other register keeps its value. Also in ERROR, where nothing nests (R114). -/
def Obligations.RejectedStartRecordsConstraints : Prop :=
  ∀ s : State, s.busy = false → ¬ validLen s.OHL.toNat → ∃ t, exec .start s = .next t ∧
    t.ERRINFO =
      (if s.OHL.toNat = 0 then 0x00000201#32
       else if s.OHL.toNat = 1 then 0x00000301#32
       else if s.OHL.toNat ≤ 63 then 0x00000101#32
       else if s.OHL.toNat % 2 = 0 then 0x00000401#32
       else 0x00000501#32) ∧
    t.statusWord = 0x4F#32 ∧ t.errBit = true ∧ t.doneBit = false ∧
    t = { s with ERRINFO := t.ERRINFO, PHASE := .error, ret := none }

/-- R65, R61, R66: while BUSY a START, a CLEAR and a parameter write change nothing; only the port's `ret` shows that a write
returned nothing (log 8). -/
def Obligations.BusyIgnoresWrites : Prop :=
  ∀ (s : State) (v : Word), s.busy = true →
    exec .start s = .next { s with ret := none } ∧ exec .clear s = .next { s with ret := none } ∧
    exec (.wrLen v) s = .next { s with ret := none } ∧ exec (.wrOhl v) s = .next { s with ret := none }

/-- R66: CLEAR outside BUSY returns to IDLE with no error, `STATUS` reads 0, and nothing else changes; while BUSY it changes
nothing. The empty `ret` is the port's (log 8). -/
def Obligations.ClearReturnsToIdle : Prop :=
  ∀ s : State,
    (s.busy = false → ∃ t, exec .clear s = .next t ∧
      t = { s with ERRINFO := 0, PHASE := .idle, ret := none } ∧ t.statusWord = 0) ∧
    (s.busy = true → exec .clear s = .next { s with ret := none })

/-- R61: a parameter write outside BUSY stores the value whole, whatever it is, and changes nothing else; while BUSY it is
ignored. The empty `ret` is the port's (log 8). -/
def Obligations.ParameterWritesStoreWhole : Prop :=
  ∀ (s : State) (v : Word),
    exec (.wrLen v) s = .next { s with LEN := if s.busy then s.LEN else v, ret := none } ∧
    exec (.wrOhl v) s = .next { s with OHL := if s.busy then s.OHL else v, ret := none }

/-- R55, R56: a reserved command, a write to a read-only or reserved register, a read of `CMD` and a read of a reserved
register, as the words that carry them: writes change no register of the engine, reads return 0. `ret` is the port's (log 8). -/
def Obligations.ReservedEncodingsHaveNoEffect : Prop :=
  ∀ (s : State) (r : BitVec 7) (v : Word),
    (v ≠ 1 → v ≠ 2 → decode (.host (0x80#8 ++ v)) = .ok (.wrCmd v) ∧
      exec (.wrCmd v) s = .next { s with ret := none }) ∧
    (r ≠ 0x00 → r ≠ 0x03 → r ≠ 0x04 → decode (.host (1#1 ++ r ++ v)) = .ok (.wrOther r v) ∧
      exec (.wrOther r v) s = .next { s with ret := none }) ∧
    (0x06 ≤ r.toNat → r.toNat ≤ 0x3F → decode (.host (0#1 ++ r ++ v)) = .ok (.rdOther r v) ∧
      exec (.rdOther r v) s = .next { s with ret := some 0 }) ∧
    (decode (.host (0x00#8 ++ v)) = .ok (.rdCmd v) ∧ exec (.rdCmd v) s = .next { s with ret := some 0 })

/-- R62: every control-register read completes in every phase, returns the register and changes no state of the engine.
The value returned stands in the port's `ret` (log 8). -/
def Obligations.ControlReadsReturnRegisters : Prop :=
  ∀ (s : State) (d : Word),
    exec (.rdCmd d) s = .next { s with ret := some 0 } ∧
    exec (.rdStatus d) s = .next { s with ret := some (BitVec.ofNat 32 (s.PHASE.code.toNat +
      (if 1 ≤ s.PHASE.code.toNat ∧ s.PHASE.code.toNat ≤ 7 then 0x10 else 0) +
      (if s.PHASE.code.toNat = 8 then 0x20 else 0) + (if s.PHASE.code.toNat = 15 then 0x40 else 0))) } ∧
    exec (.rdErrinfo d) s = .next { s with ret := some s.ERRINFO } ∧
    exec (.rdLen d) s = .next { s with ret := some s.LEN } ∧
    exec (.rdOhl d) s = .next { s with ret := some s.OHL } ∧
    exec (.rdHlen d) s = .next { s with ret := some (BitVec.ofNat 32 s.HLEN.toNat) }

/-- R28: the legal read values of `STATUS`, phase by phase; a read has no side effect on the engine, a write is ignored, and
after reset it reads 0. The value returned stands in the port's `ret` (log 8). -/
def Obligations.StatusReadsLegalValues : Prop :=
  (∀ (s : State) (d v : Word), exec (.rdStatus d) s = .next { s with ret := some (
    match s.PHASE with
    | .idle => 0x00#32 | .init => 0x11#32 | .load => 0x12#32 | .wmix => 0x13#32 | .supd => 0x14#32 | .fin => 0x15#32
    | .xpnd => 0x16#32 | .emit => 0x17#32 | .done => 0x28#32 | .error => 0x4F#32) } ∧
    exec (.wrOther 0x01 v) s = .next { s with ret := none }) ∧
  State.reset.statusWord = 0

/-- From R63: `RD HEX[i]` returns the character in DONE below `HLEN`, else an unspecified value, and no register of the engine
changes. That the unspecified value is a free one (nothing constrains it) and that its draw is counted in `draws` is the model's
choice (log 5); that the value returned stands in `ret` is the port's form (log 8). -/
def Obligations.HexReadsTheResultInDone : Prop :=
  ∀ (s : State) (i : BitVec 6) (d : Word),
    (s.PHASE = .done → i.toNat < s.HLEN.toNat → exec (.rdHex i d) s =
      .next { s with ret := some (BitVec.ofNat 32 (s.HEX[i.toNat]'i.isLt).toNat) }) ∧
    (¬ (s.PHASE = .done ∧ i.toNat < s.HLEN.toNat) → ∃ v, exec (.rdHex i d) s =
      .next { s with ret := some v, draws := s.draws + 1 })

/-! ### The message -/

/-- The host places a byte outside BUSY: it is read back, every other offset reads as before, nothing else changes. -/
def Obligations.PlacedByteReadsBack : Prop :=
  ∀ (s : State) (offset : Word) (b : Byte) (rest : List Input), s.inputs = .place offset b :: rest → s.busy = false →
    ∃ t, step s = .next t ∧ t.MSG.read offset.toNat = some b ∧
      (∀ a, a ≠ offset.toNat → t.MSG.read a = s.MSG.read a) ∧ t = { s with MSG := t.MSG, inputs := rest }

/-- R46, U4, in the model's form of "unspecified" (log 7), three clauses. A byte of `MSG[0..LEN-1]` changed while BUSY makes
every byte the engine reads a free value. So it stays: as long as no START is accepted, no step, the host's or the engine's,
makes any byte read anything but that free value. And placing the byte that already stands there is no change: every byte is
placed and read as before, no register changes, and a canonical message space stays the very same list. -/
def Obligations.ChangedMessageIsUnspecified : Prop :=
  (∀ (s : State) (offset : Word) (b : Byte) (rest : List Input), s.inputs = .place offset b :: rest → s.busy = true →
    offset.toNat < s.LEN.toNat → s.MSG.read offset.toNat ≠ some b → ∃ t, step s = .next t ∧
      (∀ a, t.MSG.read a = if a = offset.toNat then some b else s.MSG.read a) ∧
      (∀ a, t.msgByte a = Config.freeMsg s.runs a) ∧
      t = { s with MSG := t.MSG, inputs := rest, msgBroken := true }) ∧
  (∀ s t : State, s.msgBroken = true → step s = .next t →
    ¬ (s.busy = false ∧ validLen s.OHL.toNat ∧ s.inputs.head? = some (.word 0x8000000001#40)) →
      t.msgBroken = true ∧ t.runs = s.runs ∧ ∀ a, t.msgByte a = Config.freeMsg s.runs a) ∧
  ∀ (s : State) (offset : Word) (b : Byte) (rest : List Input), s.inputs = .place offset b :: rest →
    s.MSG.read offset.toNat = some b → ∃ t, step s = .next t ∧
      (∀ a, t.MSG.read a = s.MSG.read a ∧ t.msgByte a = s.msgByte a) ∧
      t = { s with MSG := t.MSG, inputs := rest } ∧ (s.MSG.wf → t.MSG = s.MSG)

/-! ### Runs -/

/-- R68, R141: an accepted START, with the host then silent, reaches DONE after exactly `steps(L, n)` engine steps, through
the sequence of micro-operations of R68, and the result is the digest of the contract R60. A silent host is
an empty `inputs` (log 1). -/
def Obligations.AcceptedStartComputesDigest : Prop :=
  ∀ s0 s : State, s0.busy = false → s0.inputs = [] → validLen s0.OHL.toNat → exec .start s0 = .next s →
    let n := 3 + 9 * ((s.LEN.toNat + 15) / 16) + (s.OHL.toNat + 31) / 32
    (∀ k, k < n → ∃ u : State, Sys2Proof.core.run k s = .next u ∧ u.PHASE = runPhase s.LEN.toNat s.OHL.toNat k ∧
      u.busy = true) ∧
    ∃ t : State, Sys2Proof.core.run n s = .next t ∧ t.PHASE = .done ∧ t.HLEN.toNat = s.OHL.toNat ∧
      digest s.IV s.msgByte s.LEN s.OHL = .ok (t.HEX.toList.take s.OHL.toNat)

/-- R139: host transactions may interleave with the engine steps of a run in any way; the engine, its registers and the
message are the same after the last engine step as when the host is silent. The states are those a run reaches: they meet the
run invariant, which EveryStepKeepsRunInvariant states of every step. The interleaving is the list `inputs` (log 1). -/
def Obligations.InterleavingDoesNotMatter : Prop :=
  ∀ (s : State) (ins : List Input), s.Inv → (∀ x ∈ ins, x = .engine ∨ ∃ w, x = .word w) →
    (∀ j, j ≤ ins.count .engine →
      ∃ u, Sys2Proof.core.run j { s with inputs := [] } = .next u ∧ State.busy u = true) →
    ∃ t u : State, Sys2Proof.core.run (ins.length + 1) { s with inputs := ins ++ [.engine] } = .next t ∧
      Sys2Proof.core.run (ins.count .engine + 1) { s with inputs := [] } = .next u ∧ t.inputs = [] ∧
      t.engineView = u.engineView

/-- R38: the result does not depend on any earlier digest or on the reset values: two engines about to initialize, with the
same parameters and message bytes, give the same characters. -/
def Obligations.ResultIgnoresEarlierRegisters : Prop :=
  ∀ s t : State, s.PHASE = .init → t.PHASE = .init → s.inputs = [] → t.inputs = [] → validLen s.OHL.toNat →
    s.LEN = t.LEN → s.OHL = t.OHL → s.IV = t.IV → (∀ a, a < s.LEN.toNat → s.msgByte a = t.msgByte a) →
    ∃ u v : State, Sys2Proof.core.run (stepCount s.LEN.toNat s.OHL.toNat) s = .next u ∧
      Sys2Proof.core.run (stepCount s.LEN.toNat s.OHL.toNat) t = .next v ∧ u.PHASE = .done ∧ v.PHASE = .done ∧
      u.HLEN = v.HLEN ∧ ∀ k : Fin 64, k.val < u.HLEN.toNat → u.HEX[k] = v.HEX[k]

/-- R70: exactly `n` characters, each a lowercase hex digit; the empty message needs no message byte; a shorter digest is a
prefix of a longer one. -/
def Obligations.DigestContract : Prop :=
  ∀ (iv : Vector Word 4) (M : Nat → Byte) (len n : Word), validLen n.toNat → ∃ h, digest iv M len n = .ok h ∧
    h.length = n.toNat ∧ (∀ c ∈ h, isHexChar c) ∧
    (len = 0 → ∀ M', digest iv M' len n = .ok h) ∧
    ∀ m : Word, validLen m.toNat → m.toNat ≤ n.toNat → digest iv M len m = .ok (h.take m.toNat)

/-- R58, R69: `DIGEST L, n` as host words: the two parameter writes, START, WAIT and the status read; then, by the status
read, the length and the characters, or the error record. -/
def Obligations.DigestCallExpandsToHostWords : Prop :=
  (∀ len n : Word, digestCall len n =
    [.word (BitVec.ofNat 40 (0x83 * 2 ^ 32 + len.toNat)), .word (BitVec.ofNat 40 (0x84 * 2 ^ 32 + n.toNat)),
      .word 0x8000000001#40, .wait, .word 0x0100000000#40]) ∧
  (∀ n, n ≤ 64 → digestReads 0x28 n =
    .word 0x0500000000#40 :: (List.range n).map fun k => Input.word (BitVec.ofNat 40 ((0x40 + k) * 2 ^ 32))) ∧
  ∀ n, digestReads 0x4F n = [.word 0x0200000000#40]

/-- R69: the host places a message and issues `DIGEST L, n` up to the status read. After finitely many steps all of it has
been done: for a valid length `STATUS` read 0x28 and the result is the digest of the placed bytes; for an invalid one it read
0x4F and `ERRINFO` holds the error. The host's doings are the list `inputs` (log 1), its polls are WAIT's (log 15). -/
def Obligations.HostCallReturnsDigest : Prop :=
  ∀ (s : State) (bytes : List Byte) (n : Word), s.busy = false → bytes.length < 2 ^ 32 →
    s.inputs = placeMessage bytes ++ digestCall (BitVec.ofNat 32 bytes.length) n →
    ∃ (k : Nat) (t : State), Sys2Proof.core.run k s = .next t ∧ t.inputs = [] ∧
      match digest s.IV (fun a => bytes.getD a 0) (BitVec.ofNat 32 bytes.length) n with
      | .ok h => t.PHASE = .done ∧ t.ret = some 0x28 ∧ t.HLEN.toNat = n.toNat ∧ t.HEX.toList.take n.toNat = h
      | .error e => t.PHASE = .error ∧ t.ret = some 0x4F ∧ t.ERRINFO = e
end

