-- ==== Sys2Proof/Laws/Encoding.lean ====
section
/-! SUPPORT. The fields of a host word written as its first byte and its data (30_encoding.md R51). -/

namespace Sys2Proof

/-- `DATA` of a word is its low 32 bits. -/
@[simp] theorem hostData_append (b : BitVec 8) (v : Word) : hostData (b ++ v) = v := by
  ext i hi
  have h := BitVec.getLsbD_append (x := b) (y := v) (i := i)
  simp only [hi, if_true] at h
  simp only [hostData, BitVec.getElem_extractLsb', Nat.zero_add]
  exact h.trans (BitVec.getLsbD_eq_getElem hi)

/-- `REG` of a word is the low 7 bits of its first byte. -/
@[simp] theorem hostReg_append (b : BitVec 8) (v : Word) : hostReg (b ++ v) = b.extractLsb' 0 7 := by
  ext i hi
  have h := BitVec.getLsbD_append (x := b) (y := v) (i := 32 + i)
  simp only [show ¬ 32 + i < 32 by omega, if_false, Nat.add_sub_cancel_left] at h
  simp only [hostReg, BitVec.getElem_extractLsb', Nat.zero_add]
  exact h

/-- `WRF` of a word is the top bit of its first byte. -/
@[simp] theorem hostWrf_append (b : BitVec 8) (v : Word) : hostWrf (b ++ v) = b.getLsbD 7 :=
  BitVec.getLsbD_append (x := b) (y := v) (i := 39)

/-- The low 7 bits of a first byte written as `WRF` and `REG`. -/
@[simp] theorem reg_of_first_byte (b : BitVec 1) (r : BitVec 7) : (b ++ r : BitVec 8).extractLsb' 0 7 = r := by
  ext i hi
  have h := BitVec.getLsbD_append (x := b) (y := r) (i := i)
  simp only [hi, if_true] at h
  simp only [BitVec.getElem_extractLsb', Nat.zero_add]
  exact h.trans (BitVec.getLsbD_eq_getElem hi)

/-- The top bit of a first byte written as `WRF` and `REG`. -/
@[simp] theorem wrf_of_first_byte (b : BitVec 1) (r : BitVec 7) : (b ++ r : BitVec 8).getLsbD 7 = b.getLsbD 0 :=
  BitVec.getLsbD_append (x := b) (y := r) (i := 7)

end Sys2Proof
end

