-- ==== Sys2Proof/Laws/Flags.lean ====
section
/-! SUPPORT. The phase codes and the three conditions of the length check as arithmetic. -/

namespace Sys2Proof.Machine

/-- A requested length is odd when its number is (R64). -/
theorem lenOdd_eq (n : Word) : lenOdd n = decide (n.toNat % 2 = 1) := by
  simp [lenOdd, BitVec.getLsbD, Nat.testBit_zero]

/-- The lower bound, as a numeral (R64). -/
theorem lenShort_eq (n : Word) : lenShort n = decide (n.toNat < 2) := rfl

/-- The upper bound, as a numeral (R64). -/
theorem lenLong_eq (n : Word) : lenLong n = decide (64 < n.toNat) := rfl

/-- The phase of a phase's code is that phase (R24). -/
@[simp] theorem Phase.ofCode_code (p : Phase) : Phase.ofCode p.code = some p := by cases p <;> rfl

/-- No two phases have one code (R24). -/
theorem Phase.code_injective {p q : Phase} (h : p.code = q.code) : p = q := by
  have := congrArg Phase.ofCode h
  simpa using this

/-- At most one status bit is 1 (R26). -/
theorem State.status_bits_exclusive (s : State) :
    ¬ (s.busy = true ∧ s.doneBit = true) ∧ ¬ (s.busy = true ∧ s.errBit = true) ∧
      ¬ (s.doneBit = true ∧ s.errBit = true) := by
  cases h : s.PHASE <;> simp [State.busy, State.doneBit, State.errBit, Phase.busy, h]

end Sys2Proof.Machine
end

