-- ==== Sys2Proof/Laws/Stages.lean ====
section
/-! SUPPORT. The primitives and the stage functions, each said once: rotations as the library's, the passes unrolled. -/

namespace Sys2Proof.Machine

/-- The rotation of R12 is the library's rotation of a bit vector. -/
theorem rotl32_eq_rotateLeft (x : Word) (s : Nat) : rotl32 x s = x.rotateLeft s := by
  unfold rotl32 BitVec.rotateLeft BitVec.rotateLeftAux
  split
  · rename_i h
    have : x >>> 32 = 0#32 := BitVec.ushiftRight_eq_zero (by decide)
    simp [h, this]
  · rfl

/-- A byte of a block, with the block size as a numeral (R80). -/
theorem blockByte_eq (M : Nat → Byte) (len k i : Nat) :
    blockByte M len k i = if i < len - 16 * k then M (16 * k + i) else fillByte (len - 16 * k) := rfl

/-- The filler byte, with the constants as numerals (R80). -/
theorem fillByte_eq (present : Nat) : fillByte present = BitVec.ofNat 8 ((16 - present) * 31 % 256) := rfl

/-- The number of blocks, with the block size as a numeral (R86). -/
theorem nblk_eq (len : Nat) : nblk len = (len + 15) / 16 := rfl

/-- The rotation amount of word mixing is never 0 and never 32 (R82). -/
theorem mixShift_range (w : Word) : 1 ≤ mixShift w ∧ mixShift w ≤ 31 := by
  unfold mixShift
  omega

/-- The word mixing pass unrolled (R82): step 3 reads the word step 0 has just written. -/
theorem wmix_eq (S W : Vector Word 4) :
    wmix S W =
      let w0 := xor32 (rotl32 (add32 (add32 W[0] S[0]) (mul32 0 C1)) (mixShift W[0])) (mul32 W[1] C2)
      let w1 := xor32 (rotl32 (add32 (add32 W[1] S[1]) (mul32 1 C1)) (mixShift W[1])) (mul32 W[2] C2)
      let w2 := xor32 (rotl32 (add32 (add32 W[2] S[2]) (mul32 2 C1)) (mixShift W[2])) (mul32 W[3] C2)
      let w3 := xor32 (rotl32 (add32 (add32 W[3] S[3]) (mul32 3 C1)) (mixShift W[3])) (mul32 w0 C2)
      #v[w0, w1, w2, w3] := by
  ext i hi
  have : i = 0 ∨ i = 1 ∨ i = 2 ∨ i = 3 := by omega
  rcases this with rfl | rfl | rfl | rfl <;> simp [wmix, passOrder, wmixStep, nextWord]

/-- The state update pass unrolled (R84): step 3 reads the word step 0 has just written. -/
theorem supd_eq (S W : Vector Word 4) (r : Nat) :
    supd S W r =
      let s0 := xor32 (rotl32 (add32 S[0] W[0]) (updateShift r 0)) (add32 S[1] C3)
      let s1 := xor32 (rotl32 (add32 S[1] W[1]) (updateShift r 1)) (add32 S[2] C3)
      let s2 := xor32 (rotl32 (add32 S[2] W[2]) (updateShift r 2)) (add32 S[3] C3)
      let s3 := xor32 (rotl32 (add32 S[3] W[3]) (updateShift r 3)) (add32 s0 C3)
      #v[s0, s1, s2, s3] := by
  ext i hi
  have : i = 0 ∨ i = 1 ∨ i = 2 ∨ i = 3 := by omega
  rcases this with rfl | rfl | rfl | rfl <;> simp [supd, passOrder, supdStep, nextWord]

/-- Two characters a byte (R16). -/
theorem hexText_length (l : List Byte) : (l.flatMap hex2).length = 2 * l.length := by
  induction l with
  | nil => rfl
  | cons b l ih =>
    simp only [List.flatMap_cons, List.length_append, ih, hex2, List.length_cons, List.length_nil]
    omega

/-- How many characters the two truncations leave (R98). -/
theorem hexString_length (acc : List Byte) (n : Nat) :
    (hexString acc n).length = min n (2 * min (needed n) acc.length) := by
  rw [hexString, List.length_take, hexText_length, List.length_take]

/-- Only bytes below the end of the message are read: two messages that agree there give the same block (R41, R80). -/
theorem loadblock_congr {M M' : Nat → Byte} {len k : Nat}
    (h : ∀ a, 16 * k ≤ a → a < 16 * k + 16 → a < len → M a = M' a) : loadblock M len k = loadblock M' len k := by
  have byte : ∀ i, i < 16 → blockByte M len k i = blockByte M' len k i := by
    intro i hi
    simp only [blockByte_eq]
    by_cases hr : i < len - 16 * k
    · simp only [hr, if_true]
      exact h _ (by omega) (by omega) (by omega)
    · simp only [hr, if_false]
  ext i hi
  simp only [loadblock, Vector.getElem_ofFn, byte (4 * i) (by omega), byte (4 * i + 1) (by omega),
    byte (4 * i + 2) (by omega), byte (4 * i + 3) (by omega)]

end Sys2Proof.Machine
end

