-- ==== Sys2Proof/Laws/Meanings.lean ====
section
/-! SUPPORT. The meanings with more than one outcome, each inverted once: if it answers a next state, which one and when. -/

namespace Sys2Proof.Machine

variable {s t : State}

/-- When EMIT would lack a character: the requested length is odd or above 64 (log 12). -/
theorem hexString_short_iff (acc : Vector Byte 32) (n : Nat) :
    (hexString acc.toList n).length < n ↔ n % 2 = 1 ∨ 64 < n := by
  rw [hexString_length, Vector.length_toList]
  unfold needed
  omega

/-- LOAD, inverted (R80, R81; log 10). -/
theorem execLoad_next (h : execLoad s = .next t) :
    16 * s.BLK.toNat ≤ s.LEN.toNat ∧
      t = { s with W := loadblock s.msgByte s.LEN.toNat s.BLK.toNat, RND := 0, PHASE := .wmix } := by
  unfold execLoad at h
  split at h
  · cases h
  · rename_i hlt
    cases h
    exact ⟨Nat.not_lt.1 hlt, rfl⟩

/-- SUPD, inverted (R84, R85). -/
theorem execSupd_next (h : execSupd s = .next t) :
    (s.RND.toNat < 3 ∧ t = { s with S := supd s.S s.W s.RND.toNat, RND := s.RND + 1, PHASE := .wmix }) ∨
    (s.RND.toNat = 3 ∧ t = { s with
      S := supd s.S s.W s.RND.toNat
      BLK := s.BLK + 1
      PHASE := if 16 * (s.BLK.toNat + 1) < s.LEN.toNat then .load else .fin }) := by
  unfold execSupd State.nextRound at h
  split at h
  · rename_i hlt
    cases h
    exact .inl ⟨hlt, rfl⟩
  · rename_i hlt
    cases h
    have hr : s.RND.toNat < 4 := s.RND.isLt
    have hge : ¬ s.RND.toNat < 3 := hlt
    exact .inr ⟨by omega, rfl⟩

/-- XPND, inverted (R95, R96; log 11). -/
theorem execXpnd_next (h : execXpnd s = .next t) :
    s.ACCLEN.toNat ≤ 16 ∧ t = { s with
      ACC := appendChunk s.ACC s.ACCLEN.toNat (chunk s.BASE s.CTR)
      ACCLEN := s.ACCLEN + 16
      CTR := add32 s.CTR 1
      PHASE := if needed s.OHL.toNat ≤ s.ACCLEN.toNat + 16 then .emit else .xpnd } := by
  unfold execXpnd at h
  split at h
  · cases h
  · rename_i hlt
    cases h
    exact ⟨Nat.not_lt.1 hlt, rfl⟩

/-- EMIT, inverted (R98, R99; log 12). -/
theorem execEmit_next (h : execEmit s = .next t) :
    (s.OHL.toNat % 2 = 0 ∧ s.OHL.toNat ≤ 64) ∧ t = { s with
      HEX := writeHex s.HEX (hexString s.ACC.toList s.OHL.toNat)
      HLEN := s.OHL.setWidth 7
      PHASE := .done } := by
  unfold execEmit at h
  split at h
  · cases h
  · rename_i hlt
    rw [hexString_short_iff] at hlt
    cases h
    exact ⟨by omega, rfl⟩

/-- START, inverted (R64, R65). -/
theorem execStart_next (h : execStart s = .next t) :
    (s.busy = true ∧ t = s.returnsNothing) ∨
    (s.busy = false ∧ lenBad s.OHL = true ∧
      t = s.returnsNothing.raiseInvalidParameter (lenLong s.OHL) (lenShort s.OHL) (lenOdd s.OHL)) ∨
    (s.busy = false ∧ lenBad s.OHL = false ∧ t = s.returnsNothing.beginRun) := by
  unfold execStart at h
  split at h
  · rename_i hb
    cases h
    exact .inl ⟨hb, rfl⟩
  · rename_i hb
    have hb' : s.busy = false := by simpa using hb
    split at h
    · rename_i hl
      cases h
      exact .inr (.inl ⟨hb', hl, rfl⟩)
    · rename_i hl
      cases h
      exact .inr (.inr ⟨hb', by simpa using hl, rfl⟩)

end Sys2Proof.Machine
end

