-- ==== Sys2Proof/Laws/Memory.lean ====
section
/-! SUPPORT. The message space: what a byte read gives after a byte placed, and the canonical form kept. -/

namespace Sys2Proof.Machine

/-- A byte placed is read back. -/
@[simp] theorem Memory.read_write_self (m : Memory) (a : Nat) (b : Byte) : (Memory.write m a b).read a = some b := by
  induction m with
  | nil => simp [Memory.write, Memory.read]
  | cons c m ih =>
    obtain ⟨k, v⟩ := c
    simp only [Memory.write]
    split
    · simp [Memory.read]
    · split
      · simp [Memory.read]
      · rename_i h
        simp [Memory.read, h, ih]

/-- Placing a byte leaves every other offset alone. -/
theorem Memory.read_write_of_ne (m : Memory) {a a' : Nat} (b : Byte) (h : a' ≠ a) :
    (Memory.write m a b).read a' = m.read a' := by
  induction m with
  | nil => simp [Memory.write, Memory.read, h]
  | cons c m ih =>
    obtain ⟨k, v⟩ := c
    simp only [Memory.write]
    split
    · simp [Memory.read, h]
    · split
      · subst a
        simp [Memory.read, h]
      · simp [Memory.read, ih]

/-- The offsets listed after a write are the old ones and the one written. -/
theorem Memory.mem_write {m : Memory} {a : Nat} {b : Byte} {c : Host.Cell} (h : c ∈ Memory.write m a b) :
    c = (a, b) ∨ c ∈ m := by
  induction m with
  | nil => simpa [Memory.write] using h
  | cons d m ih =>
    obtain ⟨k, v⟩ := d
    simp only [Memory.write] at h
    split at h
    · simpa using h
    · split at h
      · rcases List.mem_cons.1 h with h | h
        · exact .inl h
        · exact .inr (List.mem_cons_of_mem _ h)
      · rcases List.mem_cons.1 h with h | h
        · exact .inr (h ▸ List.mem_cons_self)
        · rcases ih h with h | h
          · exact .inl h
          · exact .inr (List.mem_cons_of_mem _ h)

/-- A write keeps the offsets strictly rising. -/
theorem Memory.write_rising {m : Memory} (a : Nat) (b : Byte) (h : (m.map Prod.fst).Pairwise (· < ·)) :
    ((Memory.write m a b).map Prod.fst).Pairwise (· < ·) := by
  induction m with
  | nil => simp [Memory.write]
  | cons d m ih =>
    obtain ⟨k, v⟩ := d
    simp only [List.map_cons, List.pairwise_cons] at h
    simp only [Memory.write]
    split
    · rename_i hlt
      simp only [List.map_cons, List.pairwise_cons]
      refine ⟨fun x hx => ?_, h⟩
      rcases List.mem_cons.1 hx with rfl | hx
      · exact hlt
      · exact hlt.trans (h.1 x hx)
    · split
      · subst k
        simpa using h
      · simp only [List.map_cons, List.pairwise_cons]
        refine ⟨fun x hx => ?_, ih h.2⟩
        obtain ⟨c, hc, rfl⟩ := List.mem_map.1 hx
        rcases Memory.mem_write hc with rfl | hc
        · show k < a
          omega
        · exact h.1 _ (List.mem_map_of_mem hc)

/-- A write at a 32-bit offset keeps the canonical form. -/
theorem Memory.write_wf {m : Memory} {a : Nat} (b : Byte) (ha : a < 2 ^ 32) (h : m.wf) : (Memory.write m a b).wf :=
  ⟨Memory.write_rising a b h.1, fun _ hc => (Memory.mem_write hc).elim (fun e => e ▸ ha) (h.2 _)⟩

/-- Every byte after a write. -/
theorem Memory.read_write (m : Memory) (a a' : Nat) (b : Byte) :
    (Memory.write m a b).read a' = if a' = a then some b else m.read a' := by
  split
  · rename_i h
    subst h
    exact Memory.read_write_self m a' b
  · exact Memory.read_write_of_ne m b ‹_›

/-- A byte read from a message space is listed there. -/
theorem Memory.mem_of_read {m : Memory} {a : Nat} {b : Byte} (h : m.read a = some b) : (a, b) ∈ m := by
  induction m with
  | nil => simp [Memory.read] at h
  | cons c m ih =>
    obtain ⟨k, v⟩ := c
    simp only [Memory.read] at h
    split at h
    · cases h
      subst a
      exact List.mem_cons_self
    · exact List.mem_cons_of_mem _ (ih h)

/-- Writing the byte that stands there leaves a canonical message space as it is. -/
theorem Memory.write_same {m : Memory} {a : Nat} {b : Byte} (hm : (m.map Prod.fst).Pairwise (· < ·))
    (h : m.read a = some b) : Memory.write m a b = m := by
  induction m with
  | nil => simp [Memory.read] at h
  | cons c m ih =>
    obtain ⟨k, v⟩ := c
    simp only [List.map_cons, List.pairwise_cons] at hm
    simp only [Memory.read] at h
    by_cases hk : a = k
    · subst hk
      simp only [if_true, Option.some.injEq] at h
      simp [Memory.write, h]
    · simp only [hk, if_false] at h
      have hlt : k < a := hm.1 _ (List.mem_map_of_mem (Memory.mem_of_read h))
      simp only [Memory.write, Nat.not_lt.2 hlt.le, hk, if_false, ih hm.2 h]

/-- Placing a byte keeps the canonical form. -/
theorem State.placeByte_wf {s : State} (a : Word) (b : Byte) (h : s.MSG.wf) : (s.placeByte a b).MSG.wf :=
  Memory.write_wf b a.isLt h

/-- The message space lists nothing at reset, which is canonical. -/
theorem State.reset_wf : State.reset.MSG.wf := by decide

/-- A placed byte is what the engine reads, while the host keeps the message unchanged (R41, R46). -/
theorem State.msgByte_of_placed {s : State} {a : Nat} {b : Byte} (hb : s.msgBroken = false) (h : s.MSG.read a = some b) :
    s.msgByte a = b := by simp [State.msgByte, hb, h]

/-- Every byte read is unspecified once the message has been changed during the run (R46; log 7). -/
theorem State.msgByte_of_broken {s : State} (a : Nat) (hb : s.msgBroken = true) :
    s.msgByte a = Config.freeMsg s.runs a := by simp [State.msgByte, hb]

end Sys2Proof.Machine
end

