-- ==== Sys2Proof/Laws/PerInstr.lean ====
section
/-! SUPPORT. Facts about each instruction as syntax, one lemma per constructor. -/

namespace Sys2Proof.Laws.Format

/-- An instruction of the host is encoded as a host word, a micro-operation as a `PHASE` code (30_encoding.md R50). -/
def Statement (i : Instr) : Prop := i.isHost = true ↔ ∃ w, encode i = .host w

theorem start : Statement .start := ⟨fun _ => ⟨_, rfl⟩, fun _ => rfl⟩
theorem clear : Statement .clear := ⟨fun _ => ⟨_, rfl⟩, fun _ => rfl⟩
theorem wrCmd (v : Word) : Statement (.wrCmd v) := ⟨fun _ => ⟨_, rfl⟩, fun _ => rfl⟩
theorem wrLen (v : Word) : Statement (.wrLen v) := ⟨fun _ => ⟨_, rfl⟩, fun _ => rfl⟩
theorem wrOhl (v : Word) : Statement (.wrOhl v) := ⟨fun _ => ⟨_, rfl⟩, fun _ => rfl⟩
theorem wrOther (r : BitVec 7) (v : Word) : Statement (.wrOther r v) := ⟨fun _ => ⟨_, rfl⟩, fun _ => rfl⟩
theorem rdCmd (d : Word) : Statement (.rdCmd d) := ⟨fun _ => ⟨_, rfl⟩, fun _ => rfl⟩
theorem rdStatus (d : Word) : Statement (.rdStatus d) := ⟨fun _ => ⟨_, rfl⟩, fun _ => rfl⟩
theorem rdErrinfo (d : Word) : Statement (.rdErrinfo d) := ⟨fun _ => ⟨_, rfl⟩, fun _ => rfl⟩
theorem rdLen (d : Word) : Statement (.rdLen d) := ⟨fun _ => ⟨_, rfl⟩, fun _ => rfl⟩
theorem rdOhl (d : Word) : Statement (.rdOhl d) := ⟨fun _ => ⟨_, rfl⟩, fun _ => rfl⟩
theorem rdHlen (d : Word) : Statement (.rdHlen d) := ⟨fun _ => ⟨_, rfl⟩, fun _ => rfl⟩
theorem rdHex (i : BitVec 6) (d : Word) : Statement (.rdHex i d) := ⟨fun _ => ⟨_, rfl⟩, fun _ => rfl⟩
theorem rdOther (r : BitVec 7) (d : Word) : Statement (.rdOther r d) := ⟨fun _ => ⟨_, rfl⟩, fun _ => rfl⟩
theorem init : Statement .init := by simp [Statement, Instr.isHost, encode]
theorem load : Statement .load := by simp [Statement, Instr.isHost, encode]
theorem wmix : Statement .wmix := by simp [Statement, Instr.isHost, encode]
theorem supd : Statement .supd := by simp [Statement, Instr.isHost, encode]
theorem fin : Statement .fin := by simp [Statement, Instr.isHost, encode]
theorem xpnd : Statement .xpnd := by simp [Statement, Instr.isHost, encode]
theorem emit : Statement .emit := by simp [Statement, Instr.isHost, encode]

end Sys2Proof.Laws.Format
end

