-- ==== Sys2Proof/Laws/State.lean ====
section
/-! SUPPORT. What each named update of the state does to each field: one lemma per field per update. -/

namespace Sys2Proof.Machine

variable (s : State)

@[simp] theorem State.setPhase_S (p : Phase) : (s.setPhase p).S = s.S := rfl
@[simp] theorem State.setPhase_W (p : Phase) : (s.setPhase p).W = s.W := rfl
@[simp] theorem State.setPhase_PHASE (p : Phase) : (s.setPhase p).PHASE = p := rfl
@[simp] theorem State.setPhase_BLK (p : Phase) : (s.setPhase p).BLK = s.BLK := rfl
@[simp] theorem State.setPhase_RND (p : Phase) : (s.setPhase p).RND = s.RND := rfl
@[simp] theorem State.setPhase_LEN (p : Phase) : (s.setPhase p).LEN = s.LEN := rfl
@[simp] theorem State.setPhase_OHL (p : Phase) : (s.setPhase p).OHL = s.OHL := rfl
@[simp] theorem State.setPhase_ERRINFO (p : Phase) : (s.setPhase p).ERRINFO = s.ERRINFO := rfl
@[simp] theorem State.setPhase_HLEN (p : Phase) : (s.setPhase p).HLEN = s.HLEN := rfl
@[simp] theorem State.setPhase_BASE (p : Phase) : (s.setPhase p).BASE = s.BASE := rfl
@[simp] theorem State.setPhase_CTR (p : Phase) : (s.setPhase p).CTR = s.CTR := rfl
@[simp] theorem State.setPhase_ACC (p : Phase) : (s.setPhase p).ACC = s.ACC := rfl
@[simp] theorem State.setPhase_ACCLEN (p : Phase) : (s.setPhase p).ACCLEN = s.ACCLEN := rfl
@[simp] theorem State.setPhase_HEX (p : Phase) : (s.setPhase p).HEX = s.HEX := rfl
@[simp] theorem State.setPhase_MSG (p : Phase) : (s.setPhase p).MSG = s.MSG := rfl
@[simp] theorem State.setPhase_IV (p : Phase) : (s.setPhase p).IV = s.IV := rfl
@[simp] theorem State.setPhase_inputs (p : Phase) : (s.setPhase p).inputs = s.inputs := rfl
@[simp] theorem State.setPhase_ret (p : Phase) : (s.setPhase p).ret = s.ret := rfl
@[simp] theorem State.setPhase_draws (p : Phase) : (s.setPhase p).draws = s.draws := rfl
@[simp] theorem State.setPhase_runs (p : Phase) : (s.setPhase p).runs = s.runs := rfl
@[simp] theorem State.setPhase_msgBroken (p : Phase) : (s.setPhase p).msgBroken = s.msgBroken := rfl

@[simp] theorem State.setInputs_S (l : List Input) : (s.setInputs l).S = s.S := rfl
@[simp] theorem State.setInputs_W (l : List Input) : (s.setInputs l).W = s.W := rfl
@[simp] theorem State.setInputs_PHASE (l : List Input) : (s.setInputs l).PHASE = s.PHASE := rfl
@[simp] theorem State.setInputs_BLK (l : List Input) : (s.setInputs l).BLK = s.BLK := rfl
@[simp] theorem State.setInputs_RND (l : List Input) : (s.setInputs l).RND = s.RND := rfl
@[simp] theorem State.setInputs_LEN (l : List Input) : (s.setInputs l).LEN = s.LEN := rfl
@[simp] theorem State.setInputs_OHL (l : List Input) : (s.setInputs l).OHL = s.OHL := rfl
@[simp] theorem State.setInputs_ERRINFO (l : List Input) : (s.setInputs l).ERRINFO = s.ERRINFO := rfl
@[simp] theorem State.setInputs_HLEN (l : List Input) : (s.setInputs l).HLEN = s.HLEN := rfl
@[simp] theorem State.setInputs_BASE (l : List Input) : (s.setInputs l).BASE = s.BASE := rfl
@[simp] theorem State.setInputs_CTR (l : List Input) : (s.setInputs l).CTR = s.CTR := rfl
@[simp] theorem State.setInputs_ACC (l : List Input) : (s.setInputs l).ACC = s.ACC := rfl
@[simp] theorem State.setInputs_ACCLEN (l : List Input) : (s.setInputs l).ACCLEN = s.ACCLEN := rfl
@[simp] theorem State.setInputs_HEX (l : List Input) : (s.setInputs l).HEX = s.HEX := rfl
@[simp] theorem State.setInputs_MSG (l : List Input) : (s.setInputs l).MSG = s.MSG := rfl
@[simp] theorem State.setInputs_IV (l : List Input) : (s.setInputs l).IV = s.IV := rfl
@[simp] theorem State.setInputs_inputs (l : List Input) : (s.setInputs l).inputs = l := rfl
@[simp] theorem State.setInputs_ret (l : List Input) : (s.setInputs l).ret = s.ret := rfl
@[simp] theorem State.setInputs_draws (l : List Input) : (s.setInputs l).draws = s.draws := rfl
@[simp] theorem State.setInputs_runs (l : List Input) : (s.setInputs l).runs = s.runs := rfl
@[simp] theorem State.setInputs_msgBroken (l : List Input) : (s.setInputs l).msgBroken = s.msgBroken := rfl

@[simp] theorem State.returns_S (v : Word) : (s.returns v).S = s.S := rfl
@[simp] theorem State.returns_W (v : Word) : (s.returns v).W = s.W := rfl
@[simp] theorem State.returns_PHASE (v : Word) : (s.returns v).PHASE = s.PHASE := rfl
@[simp] theorem State.returns_BLK (v : Word) : (s.returns v).BLK = s.BLK := rfl
@[simp] theorem State.returns_RND (v : Word) : (s.returns v).RND = s.RND := rfl
@[simp] theorem State.returns_LEN (v : Word) : (s.returns v).LEN = s.LEN := rfl
@[simp] theorem State.returns_OHL (v : Word) : (s.returns v).OHL = s.OHL := rfl
@[simp] theorem State.returns_ERRINFO (v : Word) : (s.returns v).ERRINFO = s.ERRINFO := rfl
@[simp] theorem State.returns_HLEN (v : Word) : (s.returns v).HLEN = s.HLEN := rfl
@[simp] theorem State.returns_BASE (v : Word) : (s.returns v).BASE = s.BASE := rfl
@[simp] theorem State.returns_CTR (v : Word) : (s.returns v).CTR = s.CTR := rfl
@[simp] theorem State.returns_ACC (v : Word) : (s.returns v).ACC = s.ACC := rfl
@[simp] theorem State.returns_ACCLEN (v : Word) : (s.returns v).ACCLEN = s.ACCLEN := rfl
@[simp] theorem State.returns_HEX (v : Word) : (s.returns v).HEX = s.HEX := rfl
@[simp] theorem State.returns_MSG (v : Word) : (s.returns v).MSG = s.MSG := rfl
@[simp] theorem State.returns_IV (v : Word) : (s.returns v).IV = s.IV := rfl
@[simp] theorem State.returns_inputs (v : Word) : (s.returns v).inputs = s.inputs := rfl
@[simp] theorem State.returns_ret (v : Word) : (s.returns v).ret = some v := rfl
@[simp] theorem State.returns_draws (v : Word) : (s.returns v).draws = s.draws := rfl
@[simp] theorem State.returns_runs (v : Word) : (s.returns v).runs = s.runs := rfl
@[simp] theorem State.returns_msgBroken (v : Word) : (s.returns v).msgBroken = s.msgBroken := rfl

@[simp] theorem State.returnsNothing_S : (s.returnsNothing).S = s.S := rfl
@[simp] theorem State.returnsNothing_W : (s.returnsNothing).W = s.W := rfl
@[simp] theorem State.returnsNothing_PHASE : (s.returnsNothing).PHASE = s.PHASE := rfl
@[simp] theorem State.returnsNothing_BLK : (s.returnsNothing).BLK = s.BLK := rfl
@[simp] theorem State.returnsNothing_RND : (s.returnsNothing).RND = s.RND := rfl
@[simp] theorem State.returnsNothing_LEN : (s.returnsNothing).LEN = s.LEN := rfl
@[simp] theorem State.returnsNothing_OHL : (s.returnsNothing).OHL = s.OHL := rfl
@[simp] theorem State.returnsNothing_ERRINFO : (s.returnsNothing).ERRINFO = s.ERRINFO := rfl
@[simp] theorem State.returnsNothing_HLEN : (s.returnsNothing).HLEN = s.HLEN := rfl
@[simp] theorem State.returnsNothing_BASE : (s.returnsNothing).BASE = s.BASE := rfl
@[simp] theorem State.returnsNothing_CTR : (s.returnsNothing).CTR = s.CTR := rfl
@[simp] theorem State.returnsNothing_ACC : (s.returnsNothing).ACC = s.ACC := rfl
@[simp] theorem State.returnsNothing_ACCLEN : (s.returnsNothing).ACCLEN = s.ACCLEN := rfl
@[simp] theorem State.returnsNothing_HEX : (s.returnsNothing).HEX = s.HEX := rfl
@[simp] theorem State.returnsNothing_MSG : (s.returnsNothing).MSG = s.MSG := rfl
@[simp] theorem State.returnsNothing_IV : (s.returnsNothing).IV = s.IV := rfl
@[simp] theorem State.returnsNothing_inputs : (s.returnsNothing).inputs = s.inputs := rfl
@[simp] theorem State.returnsNothing_ret : (s.returnsNothing).ret = none := rfl
@[simp] theorem State.returnsNothing_draws : (s.returnsNothing).draws = s.draws := rfl
@[simp] theorem State.returnsNothing_runs : (s.returnsNothing).runs = s.runs := rfl
@[simp] theorem State.returnsNothing_msgBroken : (s.returnsNothing).msgBroken = s.msgBroken := rfl

@[simp] theorem State.returnsFree_S : (s.returnsFree).S = s.S := rfl
@[simp] theorem State.returnsFree_W : (s.returnsFree).W = s.W := rfl
@[simp] theorem State.returnsFree_PHASE : (s.returnsFree).PHASE = s.PHASE := rfl
@[simp] theorem State.returnsFree_BLK : (s.returnsFree).BLK = s.BLK := rfl
@[simp] theorem State.returnsFree_RND : (s.returnsFree).RND = s.RND := rfl
@[simp] theorem State.returnsFree_LEN : (s.returnsFree).LEN = s.LEN := rfl
@[simp] theorem State.returnsFree_OHL : (s.returnsFree).OHL = s.OHL := rfl
@[simp] theorem State.returnsFree_ERRINFO : (s.returnsFree).ERRINFO = s.ERRINFO := rfl
@[simp] theorem State.returnsFree_HLEN : (s.returnsFree).HLEN = s.HLEN := rfl
@[simp] theorem State.returnsFree_BASE : (s.returnsFree).BASE = s.BASE := rfl
@[simp] theorem State.returnsFree_CTR : (s.returnsFree).CTR = s.CTR := rfl
@[simp] theorem State.returnsFree_ACC : (s.returnsFree).ACC = s.ACC := rfl
@[simp] theorem State.returnsFree_ACCLEN : (s.returnsFree).ACCLEN = s.ACCLEN := rfl
@[simp] theorem State.returnsFree_HEX : (s.returnsFree).HEX = s.HEX := rfl
@[simp] theorem State.returnsFree_MSG : (s.returnsFree).MSG = s.MSG := rfl
@[simp] theorem State.returnsFree_IV : (s.returnsFree).IV = s.IV := rfl
@[simp] theorem State.returnsFree_inputs : (s.returnsFree).inputs = s.inputs := rfl
@[simp] theorem State.returnsFree_ret : (s.returnsFree).ret = some (Config.freeRead s.draws) := rfl
@[simp] theorem State.returnsFree_draws : (s.returnsFree).draws = s.draws + 1 := rfl
@[simp] theorem State.returnsFree_runs : (s.returnsFree).runs = s.runs := rfl
@[simp] theorem State.returnsFree_msgBroken : (s.returnsFree).msgBroken = s.msgBroken := rfl

@[simp] theorem State.raiseInvalidParameter_S (l h o : Bool) : (s.raiseInvalidParameter l h o).S = s.S := rfl
@[simp] theorem State.raiseInvalidParameter_W (l h o : Bool) : (s.raiseInvalidParameter l h o).W = s.W := rfl
@[simp] theorem State.raiseInvalidParameter_PHASE (l h o : Bool) : (s.raiseInvalidParameter l h o).PHASE = .error := rfl
@[simp] theorem State.raiseInvalidParameter_BLK (l h o : Bool) : (s.raiseInvalidParameter l h o).BLK = s.BLK := rfl
@[simp] theorem State.raiseInvalidParameter_RND (l h o : Bool) : (s.raiseInvalidParameter l h o).RND = s.RND := rfl
@[simp] theorem State.raiseInvalidParameter_LEN (l h o : Bool) : (s.raiseInvalidParameter l h o).LEN = s.LEN := rfl
@[simp] theorem State.raiseInvalidParameter_OHL (l h o : Bool) : (s.raiseInvalidParameter l h o).OHL = s.OHL := rfl
@[simp] theorem State.raiseInvalidParameter_ERRINFO (l h o : Bool) : (s.raiseInvalidParameter l h o).ERRINFO = errinfoWord l h o := rfl
@[simp] theorem State.raiseInvalidParameter_HLEN (l h o : Bool) : (s.raiseInvalidParameter l h o).HLEN = s.HLEN := rfl
@[simp] theorem State.raiseInvalidParameter_BASE (l h o : Bool) : (s.raiseInvalidParameter l h o).BASE = s.BASE := rfl
@[simp] theorem State.raiseInvalidParameter_CTR (l h o : Bool) : (s.raiseInvalidParameter l h o).CTR = s.CTR := rfl
@[simp] theorem State.raiseInvalidParameter_ACC (l h o : Bool) : (s.raiseInvalidParameter l h o).ACC = s.ACC := rfl
@[simp] theorem State.raiseInvalidParameter_ACCLEN (l h o : Bool) : (s.raiseInvalidParameter l h o).ACCLEN = s.ACCLEN := rfl
@[simp] theorem State.raiseInvalidParameter_HEX (l h o : Bool) : (s.raiseInvalidParameter l h o).HEX = s.HEX := rfl
@[simp] theorem State.raiseInvalidParameter_MSG (l h o : Bool) : (s.raiseInvalidParameter l h o).MSG = s.MSG := rfl
@[simp] theorem State.raiseInvalidParameter_IV (l h o : Bool) : (s.raiseInvalidParameter l h o).IV = s.IV := rfl
@[simp] theorem State.raiseInvalidParameter_inputs (l h o : Bool) : (s.raiseInvalidParameter l h o).inputs = s.inputs := rfl
@[simp] theorem State.raiseInvalidParameter_ret (l h o : Bool) : (s.raiseInvalidParameter l h o).ret = s.ret := rfl
@[simp] theorem State.raiseInvalidParameter_draws (l h o : Bool) : (s.raiseInvalidParameter l h o).draws = s.draws := rfl
@[simp] theorem State.raiseInvalidParameter_runs (l h o : Bool) : (s.raiseInvalidParameter l h o).runs = s.runs := rfl
@[simp] theorem State.raiseInvalidParameter_msgBroken (l h o : Bool) : (s.raiseInvalidParameter l h o).msgBroken = s.msgBroken := rfl

@[simp] theorem State.toIdle_S : (s.toIdle).S = s.S := rfl
@[simp] theorem State.toIdle_W : (s.toIdle).W = s.W := rfl
@[simp] theorem State.toIdle_PHASE : (s.toIdle).PHASE = .idle := rfl
@[simp] theorem State.toIdle_BLK : (s.toIdle).BLK = s.BLK := rfl
@[simp] theorem State.toIdle_RND : (s.toIdle).RND = s.RND := rfl
@[simp] theorem State.toIdle_LEN : (s.toIdle).LEN = s.LEN := rfl
@[simp] theorem State.toIdle_OHL : (s.toIdle).OHL = s.OHL := rfl
@[simp] theorem State.toIdle_ERRINFO : (s.toIdle).ERRINFO = 0 := rfl
@[simp] theorem State.toIdle_HLEN : (s.toIdle).HLEN = s.HLEN := rfl
@[simp] theorem State.toIdle_BASE : (s.toIdle).BASE = s.BASE := rfl
@[simp] theorem State.toIdle_CTR : (s.toIdle).CTR = s.CTR := rfl
@[simp] theorem State.toIdle_ACC : (s.toIdle).ACC = s.ACC := rfl
@[simp] theorem State.toIdle_ACCLEN : (s.toIdle).ACCLEN = s.ACCLEN := rfl
@[simp] theorem State.toIdle_HEX : (s.toIdle).HEX = s.HEX := rfl
@[simp] theorem State.toIdle_MSG : (s.toIdle).MSG = s.MSG := rfl
@[simp] theorem State.toIdle_IV : (s.toIdle).IV = s.IV := rfl
@[simp] theorem State.toIdle_inputs : (s.toIdle).inputs = s.inputs := rfl
@[simp] theorem State.toIdle_ret : (s.toIdle).ret = s.ret := rfl
@[simp] theorem State.toIdle_draws : (s.toIdle).draws = s.draws := rfl
@[simp] theorem State.toIdle_runs : (s.toIdle).runs = s.runs := rfl
@[simp] theorem State.toIdle_msgBroken : (s.toIdle).msgBroken = s.msgBroken := rfl

@[simp] theorem State.beginRun_S : (s.beginRun).S = s.S := rfl
@[simp] theorem State.beginRun_W : (s.beginRun).W = s.W := rfl
@[simp] theorem State.beginRun_PHASE : (s.beginRun).PHASE = .init := rfl
@[simp] theorem State.beginRun_BLK : (s.beginRun).BLK = s.BLK := rfl
@[simp] theorem State.beginRun_RND : (s.beginRun).RND = s.RND := rfl
@[simp] theorem State.beginRun_LEN : (s.beginRun).LEN = s.LEN := rfl
@[simp] theorem State.beginRun_OHL : (s.beginRun).OHL = s.OHL := rfl
@[simp] theorem State.beginRun_ERRINFO : (s.beginRun).ERRINFO = 0 := rfl
@[simp] theorem State.beginRun_HLEN : (s.beginRun).HLEN = s.HLEN := rfl
@[simp] theorem State.beginRun_BASE : (s.beginRun).BASE = s.BASE := rfl
@[simp] theorem State.beginRun_CTR : (s.beginRun).CTR = s.CTR := rfl
@[simp] theorem State.beginRun_ACC : (s.beginRun).ACC = s.ACC := rfl
@[simp] theorem State.beginRun_ACCLEN : (s.beginRun).ACCLEN = s.ACCLEN := rfl
@[simp] theorem State.beginRun_HEX : (s.beginRun).HEX = s.HEX := rfl
@[simp] theorem State.beginRun_MSG : (s.beginRun).MSG = s.MSG := rfl
@[simp] theorem State.beginRun_IV : (s.beginRun).IV = s.IV := rfl
@[simp] theorem State.beginRun_inputs : (s.beginRun).inputs = s.inputs := rfl
@[simp] theorem State.beginRun_ret : (s.beginRun).ret = s.ret := rfl
@[simp] theorem State.beginRun_draws : (s.beginRun).draws = s.draws := rfl
@[simp] theorem State.beginRun_runs : (s.beginRun).runs = s.runs + 1 := rfl
@[simp] theorem State.beginRun_msgBroken : (s.beginRun).msgBroken = false := rfl

@[simp] theorem State.placeByte_S (a : Word) (b : Byte) : (s.placeByte a b).S = s.S := rfl
@[simp] theorem State.placeByte_W (a : Word) (b : Byte) : (s.placeByte a b).W = s.W := rfl
@[simp] theorem State.placeByte_PHASE (a : Word) (b : Byte) : (s.placeByte a b).PHASE = s.PHASE := rfl
@[simp] theorem State.placeByte_BLK (a : Word) (b : Byte) : (s.placeByte a b).BLK = s.BLK := rfl
@[simp] theorem State.placeByte_RND (a : Word) (b : Byte) : (s.placeByte a b).RND = s.RND := rfl
@[simp] theorem State.placeByte_LEN (a : Word) (b : Byte) : (s.placeByte a b).LEN = s.LEN := rfl
@[simp] theorem State.placeByte_OHL (a : Word) (b : Byte) : (s.placeByte a b).OHL = s.OHL := rfl
@[simp] theorem State.placeByte_ERRINFO (a : Word) (b : Byte) : (s.placeByte a b).ERRINFO = s.ERRINFO := rfl
@[simp] theorem State.placeByte_HLEN (a : Word) (b : Byte) : (s.placeByte a b).HLEN = s.HLEN := rfl
@[simp] theorem State.placeByte_BASE (a : Word) (b : Byte) : (s.placeByte a b).BASE = s.BASE := rfl
@[simp] theorem State.placeByte_CTR (a : Word) (b : Byte) : (s.placeByte a b).CTR = s.CTR := rfl
@[simp] theorem State.placeByte_ACC (a : Word) (b : Byte) : (s.placeByte a b).ACC = s.ACC := rfl
@[simp] theorem State.placeByte_ACCLEN (a : Word) (b : Byte) : (s.placeByte a b).ACCLEN = s.ACCLEN := rfl
@[simp] theorem State.placeByte_HEX (a : Word) (b : Byte) : (s.placeByte a b).HEX = s.HEX := rfl
@[simp] theorem State.placeByte_MSG (a : Word) (b : Byte) : (s.placeByte a b).MSG = s.MSG.write a.toNat b := rfl
@[simp] theorem State.placeByte_IV (a : Word) (b : Byte) : (s.placeByte a b).IV = s.IV := rfl
@[simp] theorem State.placeByte_inputs (a : Word) (b : Byte) : (s.placeByte a b).inputs = s.inputs := rfl
@[simp] theorem State.placeByte_ret (a : Word) (b : Byte) : (s.placeByte a b).ret = s.ret := rfl
@[simp] theorem State.placeByte_draws (a : Word) (b : Byte) : (s.placeByte a b).draws = s.draws := rfl
@[simp] theorem State.placeByte_runs (a : Word) (b : Byte) : (s.placeByte a b).runs = s.runs := rfl
@[simp] theorem State.placeByte_msgBroken (a : Word) (b : Byte) : (s.placeByte a b).msgBroken = (s.msgBroken || (s.busy && decide (a.toNat < s.LEN.toNat) && decide (s.MSG.read a.toNat ≠ some b))) := rfl

@[simp] theorem State.applyReset_S : (s.applyReset).S = Vector.ofFn fun j : Fin 4 => s.freeSlot (4 + j.val) := rfl
@[simp] theorem State.applyReset_W : (s.applyReset).W = Vector.ofFn fun j : Fin 4 => s.freeSlot (8 + j.val) := rfl
@[simp] theorem State.applyReset_PHASE : (s.applyReset).PHASE = .idle := rfl
@[simp] theorem State.applyReset_BLK : (s.applyReset).BLK = s.freeSlot 0 := rfl
@[simp] theorem State.applyReset_RND : (s.applyReset).RND = (s.freeSlot 1).setWidth 2 := rfl
@[simp] theorem State.applyReset_LEN : (s.applyReset).LEN = 0 := rfl
@[simp] theorem State.applyReset_OHL : (s.applyReset).OHL = 0 := rfl
@[simp] theorem State.applyReset_ERRINFO : (s.applyReset).ERRINFO = 0 := rfl
@[simp] theorem State.applyReset_HLEN : (s.applyReset).HLEN = 0 := rfl
@[simp] theorem State.applyReset_BASE : (s.applyReset).BASE = Vector.ofFn fun j : Fin 16 => (s.freeSlot (16 + j.val)).setWidth 8 := rfl
@[simp] theorem State.applyReset_CTR : (s.applyReset).CTR = s.freeSlot 2 := rfl
@[simp] theorem State.applyReset_ACC : (s.applyReset).ACC = Vector.ofFn fun j : Fin 32 => (s.freeSlot (32 + j.val)).setWidth 8 := rfl
@[simp] theorem State.applyReset_ACCLEN : (s.applyReset).ACCLEN = (s.freeSlot 3).setWidth 6 := rfl
@[simp] theorem State.applyReset_HEX : (s.applyReset).HEX = Vector.ofFn fun j : Fin 64 => (s.freeSlot (64 + j.val)).setWidth 8 := rfl
@[simp] theorem State.applyReset_MSG : (s.applyReset).MSG = s.MSG := rfl
@[simp] theorem State.applyReset_IV : (s.applyReset).IV = s.IV := rfl
@[simp] theorem State.applyReset_inputs : (s.applyReset).inputs = s.inputs := rfl
@[simp] theorem State.applyReset_ret : (s.applyReset).ret = none := rfl
@[simp] theorem State.applyReset_draws : (s.applyReset).draws = s.draws + 1 := rfl
@[simp] theorem State.applyReset_runs : (s.applyReset).runs = s.runs := rfl
@[simp] theorem State.applyReset_msgBroken : (s.applyReset).msgBroken = s.msgBroken := rfl

end Sys2Proof.Machine
end

