-- ==== Sys2Proof/Laws/Turns.lean ====
section
/-! SUPPORT. What one step is, by the head of the host's list and by the engine's phase; the step function is not unfolded
elsewhere. -/

namespace Sys2Proof.Machine

variable {s : State}

/-- The host is silent: the engine's turn. -/
theorem step_of_silent (h : s.inputs = []) : step s = s.engineTurn := by simp [step, State.turn, h]

/-- The host gives the engine its turn. -/
theorem step_of_engine {rest : List Input} (h : s.inputs = .engine :: rest) :
    step s = (s.setInputs rest).engineTurn := by simp [step, State.turn, h]

/-- One host transaction. -/
theorem step_of_word {rest : List Input} {w : HostWord} (h : s.inputs = .word w :: rest) :
    step s = exec (decodeHost w) (s.setInputs rest) := by simp [step, State.turn, State.hostTurn, h]

/-- One poll of WAIT. -/
theorem step_of_wait {rest : List Input} (h : s.inputs = .wait :: rest) : step s = s.waitTurn rest := by
  simp [step, State.turn, h]

/-- One message byte placed. -/
theorem step_of_place {rest : List Input} {a : Word} {b : Byte} (h : s.inputs = .place a b :: rest) :
    step s = .next ((s.setInputs rest).placeByte a b) := by simp [step, State.turn, h]

/-- One reset transition. -/
theorem step_of_rst {rest : List Input} (h : s.inputs = .rst :: rest) :
    step s = .next (s.setInputs rest).applyReset := by simp [step, State.turn, h]

/-- A run of one step more, through its first step. -/
theorem run_succ_of_step {v : State} (k : Nat) (h : step s = .next v) :
    Sys2Proof.core.run (k + 1) s = Sys2Proof.core.run k v := by
  have first : Sys2Proof.core.step s = .next v := h
  simp only [Host.Core.run, first]

/-- The micro-operation of a phase, none in IDLE, DONE and ERROR. -/
def Phase.uop : Phase → Option Instr
  | .init => some .init
  | .load => some .load
  | .wmix => some .wmix
  | .supd => some .supd
  | .fin => some .fin
  | .xpnd => some .xpnd
  | .emit => some .emit
  | .idle | .done | .error => none

/-- The engine's turn runs the micro-operation of its phase. -/
theorem State.engineTurn_of_uop {i : Instr} (h : s.PHASE.uop = some i) : s.engineTurn = exec i s := by
  unfold State.engineTurn
  cases hp : s.PHASE <;> rw [hp] at h <;> cases h <;> rfl

/-- The engine has no step in IDLE, DONE and ERROR. -/
theorem State.engineTurn_of_not_busy (h : s.busy = false) : s.engineTurn = .next s := by
  unfold State.engineTurn
  cases hp : s.PHASE <;> simp [State.busy, Phase.busy, hp] at h <;> rfl

/-- Every host transaction completes, in every state. -/
theorem exec_of_isHost {i : Instr} (h : i.isHost = true) (s : State) : ∃ t, exec i s = .next t := by
  cases i <;> simp [Instr.isHost] at h <;>
    simp only [exec, execStart, execClear, execWrCmd, execWrLen, execWrOhl, execWrOther, execRdCmd, execRdStatus,
      execRdErrinfo, execRdLen, execRdOhl, execRdHlen, execRdHex, execRdOther] <;>
    (repeat' split) <;> exact ⟨_, rfl⟩

end Sys2Proof.Machine
end

