-- ==== Sys2Proof/Tests/Slice0.lean ====
section
/-! SUPPORT. The model's own tests: ill-formed terms, words written out from the spec, one-step results from the spec's vectors
(95_test_vectors.md), and a witness for the hypotheses of each statement. -/

namespace Sys2Proof.Tests

open Sys2Proof.Machine

/-! ### Helpers -/

/-- The next state, if there is one. -/
def after (o : Host.Outcome State Fault Refusal) : Option State :=
  match o with
  | .next t => some t
  | .fault _ => none
  | .refused _ => none

/-- The fault, if the machine stops with one. -/
def faultOf (o : Host.Outcome State Fault Refusal) : Option Fault :=
  match o with
  | .next _ => none
  | .fault f => some f
  | .refused _ => none

/-- `TESTIV_A` (95_test_vectors.md section 2): a test value only, not the repository's constants. -/
def testIV : Vector Word 4 := #v[0x01234567#32, 0x89ABCDEF#32, 0xFEDCBA98#32, 0x76543210#32]

/-- The reset state with `TESTIV_A`. -/
def s0 : State := { State.reset with IV := testIV }

/-- `BASE` of vector V-C-1. -/
def testBase : Vector Byte 16 :=
  #v[0x35, 0xA7, 0x41, 0xF2, 0x7F, 0x40, 0xD3, 0xA9, 0xD4, 0xC5, 0xBB, 0x82, 0x7D, 0x4A, 0x73, 0xAD]

/-! ### Well-formedness: an ill-formed term for each check -/

theorem test_start_value_is_no_reserved_command : (Instr.wrCmd 1).wf = false := by decide
theorem test_clear_value_is_no_reserved_command : (Instr.wrCmd 2).wf = false := by decide
theorem test_len_write_is_not_ignored : (Instr.wrOther 0x03 5).wf = false := by decide
theorem test_ohl_write_is_not_ignored : (Instr.wrOther 0x04 5).wf = false := by decide
theorem test_cmd_write_is_not_ignored : (Instr.wrOther 0x00 5).wf = false := by decide
theorem test_hlen_is_not_reserved : (Instr.rdOther 0x05 0).wf = false := by decide
theorem test_hex_is_not_reserved : (Instr.rdOther 0x40 0).wf = false := by decide

/-! ### Decoding: words written out from R51, R53, R54 -/

theorem test_decode_start : decodeHost 0x8000000001#40 = .start := by decide
theorem test_decode_clear : decodeHost 0x8000000002#40 = .clear := by decide
/-- R52: all 32 bits of `DATA` are compared, so 0x00000101 is not START. -/
theorem test_decode_wrCmd : decodeHost 0x8000000101#40 = .wrCmd 0x101 := by decide
theorem test_decode_wrLen : decodeHost 0x83FFFFFFFF#40 = .wrLen 0xFFFFFFFF := by decide
theorem test_decode_wrOhl : decodeHost 0x8412345678#40 = .wrOhl 0x12345678 := by decide
/-- V-H-27: `WR HEX[0], 0x41`. -/
theorem test_decode_wrOther : decodeHost 0xC000000041#40 = .wrOther 0x40 0x41 := by decide
theorem test_decode_rdCmd : decodeHost 0x0000000000#40 = .rdCmd 0 := by decide
theorem test_decode_rdStatus : decodeHost 0x0100000000#40 = .rdStatus 0 := by decide
theorem test_decode_rdErrinfo : decodeHost 0x0200000000#40 = .rdErrinfo 0 := by decide
theorem test_decode_rdLen : decodeHost 0x0300000000#40 = .rdLen 0 := by decide
theorem test_decode_rdOhl : decodeHost 0x0400000000#40 = .rdOhl 0 := by decide
theorem test_decode_rdHlen : decodeHost 0x0500000000#40 = .rdHlen 0 := by decide
theorem test_decode_rdHex_first : decodeHost 0x4000000000#40 = .rdHex 0 0 := by decide
theorem test_decode_rdHex_last : decodeHost 0x7F00000000#40 = .rdHex 63 0 := by decide
theorem test_decode_rdOther : decodeHost 0x3F00000000#40 = .rdOther 0x3F 0 := by decide
theorem test_decode_uops :
    [0b0001#4, 0b0010#4, 0b0011#4, 0b0100#4, 0b0101#4, 0b0110#4, 0b0111#4].map (fun c => (decodeUop c).toOption) =
      [some .init, some .load, some .wmix, some .supd, some .fin, some .xpnd, some .emit] := by decide
theorem test_decode_no_uop : [0b0000#4, 0b1000#4, 0b1111#4, 0b1001#4, 0b1110#4].map (fun c => (decodeUop c).toOption) =
    [none, none, none, none, none] := by decide
theorem test_table_word_host : decodeTableWord 40 0x8500000005 = some (.wrOther 0x05 5) := by decide
theorem test_table_word_uop : decodeTableWord 8 4 = some .supd ∧ decodeTableWord 8 9 = none := by decide

/-! ### Primitives (vectors V-P) -/

theorem test_rotl32 : [rotl32 0x80000001 1, rotl32 0x12345678 0, rotl32 0x12345678 32, rotl32 0x12345678 31] =
    [0x00000003, 0x12345678, 0x12345678, 0x091A2B3C] := by decide
theorem test_mul32 : mul32 0xFFFFFFFF C2 = 0xA42E166B ∧ mul32 C1 C2 = 0xD88CED05 := by decide
theorem test_be32 : be32 0x61 0xD1 0xD1 0xD1 = 0x61D1D1D1 ∧
    [0, 1, 2, 3].map (be32Byte 0x01234567) = [0x01, 0x23, 0x45, 0x67] := by decide
theorem test_hex2 : hex2 0x0A = [0x30, 0x61] ∧ hex2 0xF0 = [0x66, 0x30] := by decide

/-! ### Host words (vectors V-H) -/

/-- V-H-22. -/
theorem test_start_rejected : (after (exec .start s0)).map (fun t => (t.ERRINFO, t.statusWord, t.OHL)) =
    some (0x00000201, 0x4F, 0) := by decide
/-- V-H-7. -/
theorem test_start_accepted : (after (exec .start { s0 with OHL := 64 })).map (fun t => (t.ERRINFO, t.statusWord)) =
    some (0, 0x11) := by decide
/-- V-H-23. -/
theorem test_clear : (after (exec .clear { s0 with PHASE := .error, ERRINFO := 0x201 })).map
    (fun t => (t.ERRINFO, t.statusWord)) = some (0, 0) := by decide
/-- V-H-26. -/
theorem test_wrCmd : after (exec (.wrCmd 3) s0) = some { s0 with ret := none } := by decide
/-- V-H-24. -/
theorem test_wrLen : (after (exec (.wrLen 0xFFFFFFFF) s0)).map State.LEN = some 0xFFFFFFFF := by decide
/-- V-H-29. -/
theorem test_wrOhl_busy : (after (exec (.wrOhl 3) { s0 with PHASE := .load, OHL := 8 })).map State.OHL = some 8 := by
  decide
/-- V-H-27. -/
theorem test_wrOther : (after (exec (.wrOther 0x05 5) s0)).map State.HLEN = some 0 := by decide
theorem test_rdCmd : (after (exec (.rdCmd 7) s0)).map State.ret = some (some 0) := by decide
/-- R28: the status of DONE. -/
theorem test_rdStatus : (after (exec (.rdStatus 0) { s0 with PHASE := .done })).map State.ret = some (some 0x28) := by
  decide
theorem test_rdErrinfo : (after (exec (.rdErrinfo 0) { s0 with ERRINFO := 0x401 })).map State.ret =
    some (some 0x401) := by decide
theorem test_rdLen : (after (exec (.rdLen 0) { s0 with LEN := 3 })).map State.ret = some (some 3) := by decide
theorem test_rdOhl : (after (exec (.rdOhl 0) { s0 with OHL := 8 })).map State.ret = some (some 8) := by decide
theorem test_rdHlen : (after (exec (.rdHlen 0) { s0 with HLEN := 64 })).map State.ret = some (some 64) := by decide
/-- V-H-30: the last valid character. -/
theorem test_rdHex : (after (exec (.rdHex 7 0) { s0 with PHASE := .done, HLEN := 8, HEX := s0.HEX.set 7 0x63 })).map
    State.ret = some (some 0x63) := by decide
/-- V-H-31: one character further a value is drawn, whatever it is. -/
theorem test_rdHex_free : (after (exec (.rdHex 8 0) { s0 with PHASE := .done, HLEN := 8 })).map State.draws =
    some 1 := by decide
theorem test_rdOther : (after (exec (.rdOther 0x06 0) s0)).map State.ret = some (some 0) := by decide

/-! ### Micro-operations (vectors V-A, V-L, V-B, V-C, V-D) -/

/-- V-A-8. -/
theorem test_init : (after (exec .init { s0 with LEN := 0x01020304 })).map (fun t => (t.S, t.PHASE)) =
    some (#v[0x00214663, 0x8BA8C9EF, 0xFDD8BA98, 0x72543210], .load) := by decide
/-- V-A-1. -/
theorem test_init_empty : (after (exec .init s0)).map (fun t => (t.S, t.PHASE)) = some (testIV, .fin) := by decide
/-- V-L-7: the last block of a 17-byte message. -/
theorem test_load_partial : (after (exec .load { s0 with LEN := 17, BLK := 1, MSG := [(16, 0x67)] })).map State.W =
    some #v[0x67D1D1D1, 0xD1D1D1D1, 0xD1D1D1D1, 0xD1D1D1D1] := by decide
/-- V-L-4: fifteen bytes, one filler byte. -/
theorem test_load_one_filler : (after (exec .load { s0 with
      LEN := 15
      MSG := [(0, 0x30), (1, 0x31), (2, 0x32), (3, 0x33), (4, 0x34), (5, 0x35), (6, 0x36), (7, 0x37), (8, 0x38),
        (9, 0x39), (10, 0x61), (11, 0x62), (12, 0x63), (13, 0x64), (14, 0x65)] })).map State.W =
    some #v[0x30313233, 0x34353637, 0x38396162, 0x6364651F] := by decide
/-- V-B-3. -/
theorem test_wmix : (after (exec .wmix { s0 with
      S := #v[0x01234566, 0x89ABCCEF, 0xFEDDBA98, 0x77543210]
      W := #v[0x61D1D1D1, 0xD1D1D1D1, 0xD1D1D1D1, 0xD1D1D1D1] })).map State.W =
    some #v[0xF315B149, 0xDC4EE2BD, 0x66BA49DA, 0x1DB76C0D] := by decide
/-- V-B-2: step 3 multiplies the new `W[0]`. -/
theorem test_wmix_forwards : (after (exec .wmix { s0 with W := #v[1, 0, 0, 0] })).map State.W =
    some #v[0x00000002, 0x3C6EF363, 0x78DDE6C4, 0x02EF090D] := by decide
/-- V-B-4: round 0, where the first rotation is by 0. -/
theorem test_supd : (after (exec .supd { s0 with
      S := #v[0x01234566, 0x89ABCCEF, 0xFEDDBA98, 0x77543210]
      W := #v[0xF315B149, 0xDC4EE2BD, 0x66BA49DA, 0x1DB76C0D] })).map (fun t => (t.S, t.RND, t.PHASE)) =
    some (#v[0x078D45F9, 0x4732DD9C, 0x875F04EE, 0x66AB174A], 1, .wmix) := by decide
/-- V-B-9 with R85's example: round 3 of the first block of 17 bytes. -/
theorem test_supd_last_round : (after (exec .supd { s0 with S := #v[1, 2, 3, 4], RND := 3, LEN := 17 })).map
    (fun t => (t.S, t.BLK, t.PHASE)) = some (#v[0x6A29E669, 0x6809E66A, 0x7209E66B, 0xD433CCD1], 1, .load) := by decide
/-- V-C-1. -/
theorem test_fin : (after (exec .fin { s0 with S := testIV })).map State.BASE = some testBase := by decide
/-- V-C-8: bits shifted out are lost, there is no rotation. -/
theorem test_fin_shifts : (after (exec .fin { s0 with S := Vector.replicate 4 0x80000000 })).map State.BASE =
    some #v[0x81, 0, 0, 0, 0x80, 0x10, 0, 0, 0x80, 0x04, 0, 0, 0x90, 0, 0, 0] := by decide
/-- V-D-2: the second chunk, exclusive or before addition. -/
theorem test_xpnd_second : (after (exec .xpnd { s0 with BASE := testBase, CTR := 1, ACCLEN := 16, OHL := 64 })).map
    (fun t => (t.ACC.toList.drop 16, t.ACCLEN, t.CTR, t.PHASE)) =
    some ([0xD7, 0x4A, 0xE4, 0x95, 0x21, 0xE3, 0x76, 0x4C, 0x78, 0x68, 0x5E, 0x25, 0x1F, 0xED, 0x16, 0x50], 32, 2,
      .emit) := by decide
/-- V-D-24: seventeen bytes needed, so one chunk is not enough. -/
theorem test_xpnd_loops : (after (exec .xpnd { s0 with BASE := testBase, OHL := 34 })).map State.PHASE = some .xpnd := by
  decide
/-- V-D-21. -/
theorem test_emit : (after (exec .emit { s0 with ACC := (s0.ACC.set 0 0xD8).set 1 0x4A, OHL := 4 })).map
    (fun t => (t.HEX.toList.take 5, t.HLEN, t.PHASE)) = some ([0x64, 0x38, 0x34, 0x61, 0], 4, .done) := by decide
/-- R98: all 64 characters. -/
theorem test_emit_full : (after (exec .emit { s0 with ACC := s0.ACC.set 31 0x50, OHL := 64 })).map
    (fun t => (t.HEX.toList.drop 62, t.HLEN)) = some ([0x35, 0x30], 64) := by decide

/-! ### Witnesses: states and operands that meet the statements' hypotheses -/

/-- A busy state that meets the invariant: the second chunk of a 64-character digest is due. -/
def sExpand : State := { s0 with PHASE := .xpnd, OHL := 64, ACCLEN := 16, CTR := 1, LEN := 5, BLK := 1 }

theorem witness_invariant : sExpand.Inv where
  msg := by decide
  errinfo := by decide
  hlen := by decide
  ohl := fun _ => by unfold validLen; decide
  phase := by
    show sExpand.BLK.toNat = nblk sExpand.LEN.toNat ∧ _
    decide

/-- DecodeUndoesEncode at the edges of the reserved registers. -/
theorem witness_wf : (Instr.rdOther 0x06 0).wf = true ∧ (Instr.rdOther 0x3F 0).wf = true ∧ (Instr.wrCmd 0).wf = true ∧
    (Instr.wrOther 0x7F 0).wf = true := by decide

/-- StepRunsDecodedInstruction, its three clauses, and FetchWordRunsNext. -/
theorem witness_decoded : decode (.host 0x8000000001#40) = .ok .start ∧ decode (.uop sExpand.PHASE.code) = .ok .xpnd ∧
    sExpand.inputs = [] ∧ (sExpand.setInputs [.engine]).inputs = .engine :: [] ∧
    (s0.setInputs [.word 0x8000000001#40]).inputs = .word 0x8000000001#40 :: [] := ⟨rfl, rfl, rfl, rfl, rfl⟩

/-- PhaseSelectsMicroOperation: the edges of the unreachable codes. -/
theorem witness_unreachable_codes : 9 ≤ (9#4).toNat ∧ (14#4).toNat ≤ 14 := by decide

/-- WaitPollsStatus, both clauses; ResetLeavesIdle; PlacedByteReadsBack. -/
theorem witness_inputs : (sExpand.setInputs [.wait]).inputs = .wait :: [] ∧ (sExpand.setInputs [.wait]).busy = true ∧
    (s0.setInputs [.wait]).busy = false ∧ (sExpand.setInputs [.rst]).inputs = .rst :: [] ∧
    (s0.setInputs [.place 3 7]).inputs = .place 3 7 :: [] ∧ (s0.setInputs [.place 3 7]).busy = false := by decide

/-- EveryStepKeepsMessageCanonical and the frames: a step, and an instruction, that answers a next state. -/
theorem witness_next : (after (step sExpand)).isSome = true ∧ sExpand.MSG.wf ∧
    (after (step (s0.setInputs [.place 3 7]))).map State.MSG = some [(3, 7)] := by decide

/-- RegistersChangeOnlyUnderTheirWriters: each register does change under a writer. -/
theorem witness_writers :
    (after (exec .init { s0 with LEN := 1, BLK := 7, RND := 3, CTR := 1, ACCLEN := 16, HLEN := 2 })).map
      (fun t => (decide (t.S ≠ s0.S), t.BLK, t.RND, t.CTR, t.ACCLEN, t.HLEN)) = some (true, 0, 0, 0, 0, 0) ∧
    (after (exec .wmix s0)).map (fun t => decide (t.W ≠ s0.W)) = some true ∧
    (after (exec (.wrLen 5) s0)).map (fun t => decide (t.LEN ≠ s0.LEN)) = some true ∧
    (after (exec (.wrOhl 5) s0)).map (fun t => decide (t.OHL ≠ s0.OHL)) = some true ∧
    (after (exec .start s0)).map (fun t => decide (t.ERRINFO ≠ s0.ERRINFO ∧ t.PHASE ≠ s0.PHASE)) = some true ∧
    (after (exec .fin { s0 with S := testIV })).map (fun t => decide (t.BASE ≠ s0.BASE)) = some true ∧
    (after (exec .xpnd s0)).map (fun t => decide (t.ACC ≠ s0.ACC)) = some true ∧
    (after (exec .emit { s0 with OHL := 2 })).map (fun t => decide (t.HEX ≠ s0.HEX)) = some true :=
  ⟨by decide, by decide, by decide, by decide, by decide, by decide, by decide, by decide⟩

/-- PhaseMovesOnlyToSuccessors: an engine step and a host command that move the phase. -/
theorem witness_successors : sExpand.busy = true ∧ (after sExpand.engineTurn).map State.PHASE = some .emit ∧
    (after (exec .start { s0 with PHASE := .done, OHL := 5 })).map State.PHASE = some .error := by decide

/-- FaultsExactlyAtMissingIndexes, at the boundary of each clause. -/
theorem witness_faults : faultOf (exec .load { s0 with LEN := 15, BLK := 1 }) = some .msgOffset ∧
    faultOf (exec .load { s0 with LEN := 16, BLK := 1 }) = none ∧
    faultOf (exec .xpnd { s0 with ACCLEN := 17 }) = some .accIndex ∧ faultOf (exec .xpnd { s0 with ACCLEN := 16 }) = none ∧
    faultOf (exec .emit { s0 with OHL := 66 }) = some .hexIndex ∧
    faultOf (exec .emit { s0 with OHL := 63 }) = some .hexIndex ∧ faultOf (exec .emit { s0 with OHL := 64 }) = none := by
  decide

/-- RotateLeftIsCircular and WordArithmeticWraps: the edges of the amounts. -/
theorem witness_amounts : 32 % 32 = 0 ∧ 31 % 32 ≠ 0 ∧ 1 % 32 ≠ 0 ∧ 31 ≤ 32 := by decide

/-- InitSeparatesLengths: two states with one `IV`, of different and of equal length. -/
theorem witness_init :
    let s : State := { s0 with LEN := 1 }
    let t : State := { s0 with LEN := 2 }
    (∃ s', exec .init s = .next s') ∧ (∃ t', exec .init t = .next t') ∧ s.IV = t.IV ∧ s.LEN ≠ t.LEN :=
  ⟨⟨_, rfl⟩, ⟨_, rfl⟩, rfl, by decide⟩

/-- LoadFormsPaddedBlock at its boundary (one byte in the block); LoadReadsOnlyItsWindow with a differing byte outside. -/
theorem witness_load :
    let s : State := { s0 with LEN := 17, BLK := 1, MSG := [(0, 5), (16, 1)] }
    let t : State := { s0 with LEN := 17, BLK := 1, MSG := [(16, 1)] }
    16 * s.BLK.toNat < s.LEN.toNat ∧ (∃ s', exec .load s = .next s') ∧ (∃ t', exec .load t = .next t') ∧
      s.BLK = t.BLK ∧ s.LEN = t.LEN ∧
      ∀ a, 16 * s.BLK.toNat ≤ a → a ≤ 16 * s.BLK.toNat + 15 → a < s.LEN.toNat → s.msgByte a = t.msgByte a := by
  refine ⟨by decide, ⟨_, rfl⟩, ⟨_, rfl⟩, rfl, rfl, fun a h _ h' => ?_⟩
  have : a = 16 := by
    have h1 : 16 ≤ a := h
    have h2 : a < 17 := h'
    omega
  subst this
  rfl

/-- PlacedMessageIsWhatLoadReads: a full block placed by the host, and a partial final one of a single byte. -/
theorem witness_placed_block :
    let s : State := { s0 with LEN := 16, MSG := (List.range 16).map fun k => (k, BitVec.ofNat 8 k) }
    let t : State := { s0 with LEN := 17, BLK := 1, MSG := [(16, 0x67)] }
    (s.msgBroken = false ∧ 16 * s.BLK.toNat < s.LEN.toNat ∧
      ∀ k : Fin 16, 16 * s.BLK.toNat + k.val < s.LEN.toNat →
        s.MSG.read (16 * s.BLK.toNat + k.val) = some (BitVec.ofNat 8 k.val)) ∧
    (t.msgBroken = false ∧ 16 * t.BLK.toNat < t.LEN.toNat ∧
      ∀ k : Fin 16, 16 * t.BLK.toNat + k.val < t.LEN.toNat → t.MSG.read (16 * t.BLK.toNat + k.val) = some 0x67) := by
  decide

/-- SupdUpdatesSequentially, XpndAppendsChunk, EmitWritesHexText at their boundaries. -/
theorem witness_micro : (3#2).toNat = 3 ∧ (2#2).toNat < 3 ∧ sExpand.ACCLEN.toNat ≤ 16 ∧ sExpand.OHL.toNat % 2 = 0 ∧
    sExpand.OHL.toNat ≤ 64 := by decide

/-- The host commands, in and out of BUSY, with valid lengths at both bounds and invalid ones of every kind. -/
theorem witness_commands : sExpand.busy = true ∧ s0.busy = false ∧ validLen 2 ∧ validLen 64 ∧ ¬ validLen 0 ∧
    ¬ validLen 1 ∧ ¬ validLen 63 ∧ ¬ validLen 65 ∧ ¬ validLen 66 := by unfold validLen; decide

/-- ReservedEncodingsHaveNoEffect: the edges of each clause. -/
theorem witness_reserved : (0 : Word) ≠ 1 ∧ (3 : Word) ≠ 2 ∧ (0x7F : BitVec 7) ≠ 0x00 ∧ (0x05 : BitVec 7) ≠ 0x04 ∧
    0x06 ≤ (0x06 : BitVec 7).toNat ∧ (0x3F : BitVec 7).toNat ≤ 0x3F := by decide

/-- HexReadsTheResultInDone: inside and outside. -/
theorem witness_hex : (63 : BitVec 6).toNat < (64 : BitVec 7).toNat ∧
    ¬ (s0.PHASE = .done ∧ (0 : BitVec 6).toNat < s0.HLEN.toNat) := by decide

/-- ChangedMessageIsUnspecified, clause by clause: a change below `LEN` while BUSY (offset 4 of 5), a broken state that steps with
no START accepted (a START while BUSY), and a write of the byte already there. -/
theorem witness_changed_message :
    let s : State := { sExpand with MSG := [(4, 9)], inputs := [.place 4 8] }
    let r : State := { sExpand with msgBroken := true, inputs := [.word 0x8000000001#40] }
    let t : State := { sExpand with MSG := [(4, 9)], inputs := [.place 4 9] }
    (s.inputs = .place 4 8 :: [] ∧ s.busy = true ∧ (4 : Word).toNat < s.LEN.toNat ∧
      s.MSG.read (4 : Word).toNat ≠ some 8) ∧
    (r.msgBroken = true ∧ (∃ u, step r = .next u) ∧
      ¬ (r.busy = false ∧ validLen r.OHL.toNat ∧ r.inputs.head? = some (.word 0x8000000001#40))) ∧
    (t.inputs = .place 4 9 :: [] ∧ t.MSG.read (4 : Word).toNat = some 9 ∧ t.MSG.wf) :=
  ⟨by decide, ⟨rfl, ⟨_, rfl⟩, fun h => Bool.noConfusion h.1⟩, by decide⟩

/-- AcceptedStartComputesDigest: a START accepted with the host silent, at both bounds of the length. -/
theorem witness_accepted_start :
    let s : State := { s0 with OHL := 2 }
    let t : State := { s0 with OHL := 64 }
    s.busy = false ∧ s.inputs = [] ∧ validLen s.OHL.toNat ∧ (∃ s', exec .start s = .next s') ∧
      t.busy = false ∧ t.inputs = [] ∧ validLen t.OHL.toNat ∧ ∃ t', exec .start t = .next t' :=
  ⟨rfl, rfl, by unfold validLen; decide, ⟨_, rfl⟩, rfl, rfl, by unfold validLen; decide, ⟨_, rfl⟩⟩

/-- ResultIgnoresEarlierRegisters: two engines about to initialize that differ in a data register. -/
theorem witness_earlier_registers :
    let s : State := { s0 with PHASE := .init, OHL := 2, LEN := 1, MSG := [(0, 0x61)] }
    let t : State := { s with W := testIV, CTR := 5 }
    s.PHASE = .init ∧ t.PHASE = .init ∧ s.inputs = [] ∧ t.inputs = [] ∧ validLen s.OHL.toNat ∧ s.LEN = t.LEN ∧
      s.OHL = t.OHL ∧ s.IV = t.IV ∧ (∀ a, a < s.LEN.toNat → s.msgByte a = t.msgByte a) ∧ s ≠ t :=
  ⟨rfl, rfl, rfl, rfl, by unfold validLen; decide, rfl, rfl, rfl, fun _ _ => rfl, by decide⟩

/-- InterleavingDoesNotMatter: a host word, an engine turn, another word, the engine still busy. -/
theorem witness_interleaving :
    let s : State := { s0 with PHASE := .init, OHL := 32 }
    let ins : List Input := [.word 0x0100000000#40, .engine, .word 0x8000000002#40]
    s.Inv ∧ (∀ x ∈ ins, x = .engine ∨ ∃ w, x = .word w) ∧
      ∀ j, j ≤ ins.count .engine →
        ∃ u, Sys2Proof.core.run j { s with inputs := [] } = .next u ∧ State.busy u = true := by
  refine ⟨⟨by decide, by decide, by decide, fun _ => by unfold validLen; decide, trivial⟩, ?_, ?_⟩
  · intro x hx
    simp only [List.mem_cons, List.not_mem_nil, or_false] at hx
    rcases hx with rfl | rfl | rfl
    · exact .inr ⟨_, rfl⟩
    · exact .inl rfl
    · exact .inr ⟨_, rfl⟩
  · intro j hj
    have h1 : j ≤ 1 := hj
    have : j = 0 ∨ j = 1 := by omega
    rcases this with rfl | rfl
    · exact ⟨_, rfl, rfl⟩
    · exact ⟨_, rfl, rfl⟩

/-- DigestContract: two valid lengths in order; DigestCallExpandsToHostWords: the largest length. -/
theorem witness_digest : 64 ≤ 64 ∧ validLen (64 : Word).toNat ∧ validLen (2 : Word).toNat ∧ (2 : Word).toNat ≤ (64 : Word).toNat := by
  unfold validLen; decide

/-- HostCallReturnsDigest: the call for a one-byte message, as the words of program P4. -/
theorem witness_host_call :
    let s : State := { s0 with inputs :=
      [.place 0 0x61, .word 0x8300000001#40, .word 0x8400000042#40, .word 0x8000000001#40, .wait, .word 0x0100000000#40] }
    s.busy = false ∧ [(0x61 : Byte)].length < 2 ^ 32 ∧
      s.inputs = placeMessage [0x61] ++ digestCall (BitVec.ofNat 32 [(0x61 : Byte)].length) 66 := by decide

end Sys2Proof.Tests
end

section
/-! Settles the statements about the arithmetic primitives (00_scope.md R9 to R16). Each primitive gets its meaning as a
number, or as bits, once; the statements are assembled from these. -/

namespace Sys2Proof.Machine

/-! ### Addition, multiplication and shifts -/

theorem add32_toNat (x y : Word) : (add32 x y).toNat = (x.toNat + y.toNat) % 2 ^ 32 := BitVec.toNat_add x y

theorem mul32_toNat (x y : Word) : (mul32 x y).toNat = x.toNat * y.toNat % 2 ^ 32 := BitVec.toNat_mul x y

theorem add8_toNat (a b : Byte) : (add8 a b).toNat = (a.toNat + b.toNat) % 256 := BitVec.toNat_add a b

theorem shl32_toNat (x : Word) (s : Nat) : (shl32 x s).toNat = x.toNat * 2 ^ s % 2 ^ 32 := by
  rw [shl32, BitVec.toNat_shiftLeft, Nat.shiftLeft_eq]

theorem shr32_toNat (x : Word) (s : Nat) : (shr32 x s).toNat = x.toNat / 2 ^ s := by
  rw [shr32, BitVec.toNat_ushiftRight, Nat.shiftRight_eq_div_pow]

/-! ### Rotation -/

/-- R12: a rotation by a multiple of 32 moves nothing. -/
theorem rotl32_of_mod_eq_zero (x : Word) {s : Nat} (h : s % 32 = 0) : rotl32 x s = x := if_pos h

/-- R12: the rotation's formula, for the amounts that are not 0 or 32. -/
theorem rotl32_toNat_of_lt (x : Word) {s : Nat} (h : s < 32) :
    (rotl32 x s).toNat = x.toNat * 2 ^ s % 2 ^ 32 ||| x.toNat / 2 ^ (32 - s) := by
  rw [rotl32_eq_rotateLeft, BitVec.toNat_rotateLeft, Nat.mod_eq_of_lt h, Nat.shiftLeft_eq, Nat.shiftRight_eq_div_pow]

/-- R12: a bit that wraps around the top lands below position `s mod 32`; every other bit moves up by `s mod 32`. -/
theorem rotl32_getLsbD_add (x : Word) (s : Nat) {k : Nat} (hk : k < 32) :
    (rotl32 x s).getLsbD ((k + s) % 32) = x.getLsbD k := by
  rw [rotl32_eq_rotateLeft, BitVec.getLsbD_rotateLeft]
  by_cases wraps : 32 ≤ k + s % 32
  · have target : (k + s) % 32 = k + s % 32 - 32 := by omega
    have source : 32 - s % 32 + (k + s % 32 - 32) = k := by omega
    have low : k + s % 32 - 32 < s % 32 := by omega
    simp [target, source, low]
  · have target : (k + s) % 32 = k + s % 32 := by omega
    have inside : k + s % 32 < 32 := by omega
    simp [target, inside]

/-! ### Bytes of a word -/

/-- Appending puts the left vector above the right one. -/
theorem toNat_append_eq_add {m n : Nat} (x : BitVec m) (y : BitVec n) :
    (x ++ y).toNat = x.toNat * 2 ^ n + y.toNat := by
  rw [BitVec.toNat_append, ← Nat.shiftLeft_add_eq_or_of_lt y.isLt, Nat.shiftLeft_eq]

/-- R15: the weighted sum of the four bytes, the first the most significant. -/
theorem be32_toNat (b0 b1 b2 b3 : Byte) :
    (be32 b0 b1 b2 b3).toNat = b0.toNat * 2 ^ 24 + b1.toNat * 2 ^ 16 + b2.toNat * 2 ^ 8 + b3.toNat := by
  simp only [be32, toNat_append_eq_add]
  omega

theorem be32Byte_toNat (w : Word) (k : Nat) : (be32Byte w k).toNat = w.toNat / 2 ^ (24 - 8 * k) % 256 := by
  rw [be32Byte, BitVec.extractLsb'_toNat, Nat.shiftRight_eq_div_pow]

/-- R15: packing a word into its four bytes and back loses nothing. -/
theorem be32_be32Byte (w : Word) : be32 (be32Byte w 0) (be32Byte w 1) (be32Byte w 2) (be32Byte w 3) = w := by
  apply BitVec.eq_of_toNat_eq
  have bound : w.toNat < 2 ^ 32 := w.isLt
  simp only [be32_toNat, be32Byte_toNat]
  omega

/-! ### Hex digits -/

/-- R16: the code a nibble's digit is given by. -/
theorem hexdigit_toNat (v : BitVec 4) :
    (hexdigit v).toNat = if v.toNat < 10 then 0x30 + v.toNat else 0x61 + (v.toNat - 10) := by
  have bound : v.toNat < 16 := v.isLt
  unfold hexdigit
  split <;> rw [BitVec.toNat_ofNat] <;> omega

/-- R16: the alphabet's sixteen characters are the ASCII digits, then the lower-case letters from `a`. -/
theorem asciiHex_eq_of_lt : ∀ v, v < 16 → asciiHex v = if v < 10 then 0x30 + v else 0x61 + (v - 10) := by decide

/-- R16: the digit of a nibble is its character in the alphabet. -/
theorem hexdigit_toNat_eq_asciiHex (v : BitVec 4) : (hexdigit v).toNat = asciiHex v.toNat := by
  rw [hexdigit_toNat, asciiHex_eq_of_lt v.toNat v.isLt]

theorem isHexChar_hexdigit (v : BitVec 4) : isHexChar (hexdigit v) := by
  have bound : v.toNat < 16 := v.isLt
  rw [isHexChar, hexdigit_toNat]
  split <;> omega

/-- R16: a byte's two characters, the high nibble first. -/
theorem hex2_map_toNat (b : Byte) : (hex2 b).map BitVec.toNat = [asciiHex (b.toNat / 16), asciiHex (b.toNat % 16)] := by
  have bound : b.toNat < 256 := b.isLt
  have high : (b.extractLsb' 4 4).toNat = b.toNat / 16 := by
    rw [BitVec.extractLsb'_toNat, Nat.shiftRight_eq_div_pow]
    omega
  have low : (b.extractLsb' 0 4).toNat = b.toNat % 16 := by
    rw [BitVec.extractLsb'_toNat, Nat.shiftRight_zero]
  simp only [hex2, List.map_cons, List.map_nil, hexdigit_toNat_eq_asciiHex, high, low]

/-! ### The statements -/

/-- Settles O17: the identity and the formula by R12's two branches, the movement of bits by whether a bit wraps around. -/
theorem rotateLeftIsCircular : Obligations.RotateLeftIsCircular := by
  intro x s
  refine ⟨rotl32_of_mod_eq_zero x, fun hs hle => ?_, fun k hk => rotl32_getLsbD_add x s hk⟩
  have lt : s < 32 := by omega
  exact rotl32_toNat_of_lt x lt

/-- Settles O16, one primitive at a time. -/
theorem wordArithmeticWraps : Obligations.WordArithmeticWraps := fun x y a b =>
  ⟨add32_toNat x y, mul32_toNat x y, fun s _ => ⟨shl32_toNat x s, shr32_toNat x s⟩, add8_toNat a b⟩

/-- Settles O18: both parts are the weighted sum. -/
theorem bigEndianWords : Obligations.BigEndianWords := ⟨be32_toNat, be32_be32Byte⟩

/-- Settles O19, by the digit of a nibble. -/
theorem hexDigitsAreLowercaseAscii : Obligations.HexDigitsAreLowercaseAscii :=
  ⟨fun v => ⟨hexdigit_toNat_eq_asciiHex v, isHexChar_hexdigit v⟩, hex2_map_toNat⟩

end Sys2Proof.Machine
end

section
/-! Settles the statements about what the registers hold and who writes them (10_state.md sections 1 and 2): the reset values,
the status bits as values, the writers of each register, the successors of each phase. -/

namespace Sys2Proof.Machine

variable {s t : State}

/-! ### The remaining meanings with more than one outcome, inverted -/

/-- A transaction that is ignored while BUSY, inverted (R61, R65, R66). -/
theorem unlessBusy_next {u : State}
    (h : (if s.busy then .next s.returnsNothing else .next u : Host.Outcome State Fault Refusal) = .next t) :
    (s.busy = true ∧ t = s.returnsNothing) ∨ (s.busy = false ∧ t = u) := by
  split at h
  case isTrue hb =>
    cases h
    exact .inl ⟨hb, rfl⟩
  case isFalse hb =>
    cases h
    exact .inr ⟨Bool.eq_false_iff.2 hb, rfl⟩

theorem execClear_next (h : execClear s = .next t) :
    (s.busy = true ∧ t = s.returnsNothing) ∨ (s.busy = false ∧ t = s.returnsNothing.toIdle) := unlessBusy_next h

theorem execWrLen_next {v : Word} (h : execWrLen v s = .next t) :
    (s.busy = true ∧ t = s.returnsNothing) ∨ (s.busy = false ∧ t = { s.returnsNothing with LEN := v }) :=
  unlessBusy_next h

theorem execWrOhl_next {v : Word} (h : execWrOhl v s = .next t) :
    (s.busy = true ∧ t = s.returnsNothing) ∨ (s.busy = false ∧ t = { s.returnsNothing with OHL := v }) :=
  unlessBusy_next h

/-- `RD HEX[i]`, inverted (R63; log 5). -/
theorem execRdHex_next {i : BitVec 6} {d : Word} (h : execRdHex i d s = .next t) :
    (∃ v, t = s.returns v) ∨ t = s.returnsFree := by
  unfold execRdHex at h
  split at h
  · cases h
    exact .inl ⟨_, rfl⟩
  · cases h
    exact .inr rfl

/-! ### Who writes which register -/

/-- Settles O13, instruction by instruction through its inversion. -/
theorem registersChangeOnlyUnderTheirWriters : Obligations.RegistersChangeOnlyUnderTheirWriters := by
  intro i s t h
  cases i with
  | start => obtain ⟨-, rfl⟩ | ⟨-, -, rfl⟩ | ⟨-, -, rfl⟩ := execStart_next h <;> simp
  | clear => obtain ⟨-, rfl⟩ | ⟨-, rfl⟩ := execClear_next h <;> simp
  | wrLen v => obtain ⟨-, rfl⟩ | ⟨-, rfl⟩ := execWrLen_next h <;> simp
  | wrOhl v => obtain ⟨-, rfl⟩ | ⟨-, rfl⟩ := execWrOhl_next h <;> simp
  | wrCmd v | wrOther r v | rdCmd d | rdStatus d | rdErrinfo d | rdLen d | rdOhl d | rdHlen d | rdOther r d =>
    cases h
    simp
  | rdHex i6 d => obtain ⟨v, rfl⟩ | rfl := execRdHex_next (d := d) h <;> simp
  | init | wmix | fin =>
    cases h
    simp [Instr.isHost]
  | load =>
    obtain ⟨-, rfl⟩ := execLoad_next h
    simp [Instr.isHost]
  | supd => obtain ⟨-, rfl⟩ | ⟨-, rfl⟩ := execSupd_next h <;> simp [Instr.isHost]
  | xpnd =>
    obtain ⟨-, rfl⟩ := execXpnd_next h
    simp [Instr.isHost]
  | emit =>
    obtain ⟨-, rfl⟩ := execEmit_next h
    simp [Instr.isHost]

/-! ### Phases -/

theorem Phase.uop_eq_none_iff (p : Phase) : p.uop = none ↔ p.busy = false := by cases p <;> decide

/-- A micro-operation ends in a successor of its phase (R24) and leaves the host's pending actions alone. -/
theorem exec_uop_next {p : Phase} {i : Instr} (hu : p.uop = some i) (h : exec i s = .next t) :
    t.PHASE ∈ p.engineSuccessors ∧ t.inputs = s.inputs := by
  cases p with
  | idle | done | error => cases hu
  | init =>
    cases hu
    cases h
    by_cases hlen : s.LEN = 0#32 <;> simp [hlen, Phase.engineSuccessors]
  | wmix | fin =>
    cases hu
    cases h
    simp [Phase.engineSuccessors]
  | load =>
    cases hu
    obtain ⟨-, rfl⟩ := execLoad_next h
    simp [Phase.engineSuccessors]
  | supd =>
    cases hu
    obtain ⟨-, rfl⟩ | ⟨-, rfl⟩ := execSupd_next h
    · simp [Phase.engineSuccessors]
    · by_cases hblk : 16 * (s.BLK.toNat + 1) < s.LEN.toNat <;> simp [hblk, Phase.engineSuccessors]
  | xpnd =>
    cases hu
    obtain ⟨-, rfl⟩ := execXpnd_next h
    by_cases hacc : needed s.OHL.toNat ≤ s.ACCLEN.toNat + 16 <;> simp [hacc, Phase.engineSuccessors]
  | emit =>
    cases hu
    obtain ⟨-, rfl⟩ := execEmit_next h
    simp [Phase.engineSuccessors]

/-- An engine turn leaves the host's pending actions alone. -/
theorem State.engineTurn_inputs (h : s.engineTurn = .next t) : t.inputs = s.inputs := by
  cases hu : s.PHASE.uop with
  | none =>
    rw [State.engineTurn_of_not_busy ((Phase.uop_eq_none_iff _).1 hu)] at h
    cases h
    rfl
  | some i =>
    rw [State.engineTurn_of_uop hu] at h
    exact (exec_uop_next hu h).2

/-- Outside BUSY a START begins a run or raises the error, and CLEAR leaves a result or an error (R24). -/
theorem Phase.mem_hostSuccessors {p : Phase} (h : p.busy = false) :
    .init ∈ p.hostSuccessors ∧ .error ∈ p.hostSuccessors ∧ (p ≠ .idle → .idle ∈ p.hostSuccessors) := by
  revert h
  cases p <;> decide

/-- Settles O14: an engine step by its micro-operation; of the host's transactions only START and CLEAR write `PHASE` (O13). -/
theorem phaseMovesOnlyToSuccessors : Obligations.PhaseMovesOnlyToSuccessors := by
  refine ⟨fun s t hb h => ?_, fun i s t hi h hne => ?_⟩
  · cases hu : s.PHASE.uop with
    | none => exact absurd ((Phase.uop_eq_none_iff _).1 hu) (ne_false_of_eq_true hb)
    | some i =>
      rw [State.engineTurn_of_uop hu] at h
      exact (exec_uop_next hu h).1
  · obtain ⟨-, -, writers, -⟩ := registersChangeOnlyUnderTheirWriters i s t h
    obtain rfl | rfl | huop := writers hne
    · obtain ⟨-, rfl⟩ | ⟨hb, -, rfl⟩ | ⟨hb, -, rfl⟩ := execStart_next h
      · exact absurd rfl hne
      · exact (Phase.mem_hostSuccessors hb).2.1
      · exact (Phase.mem_hostSuccessors hb).1
    · obtain ⟨-, rfl⟩ | ⟨hb, rfl⟩ := execClear_next h
      · exact absurd rfl hne
      · exact (Phase.mem_hostSuccessors hb).2.2 hne.symm
    · rw [hi] at huop
      cases huop

/-- Settles O5: a silent host gives the engine its turn, which runs the micro-operation of the phase, if it has one. -/
theorem phaseSelectsMicroOperation : Obligations.PhaseSelectsMicroOperation := by
  refine ⟨fun s hin => ?_, fun p => by cases p <;> rfl, by decide⟩
  rw [step_of_silent hin]
  cases hp : s.PHASE with
  | idle | done | error => exact State.engineTurn_of_not_busy (by rw [State.busy, hp]; rfl)
  | init | load | wmix | supd | fin | xpnd | emit => exact State.engineTurn_of_uop (by rw [hp]; rfl)

/-! ### STATUS and reset -/

/-- What `STATUS` reads in each phase (R28). -/
def Phase.status : Phase → Word
  | .idle => 0x00#32 | .init => 0x11#32 | .load => 0x12#32 | .wmix => 0x13#32 | .supd => 0x14#32 | .fin => 0x15#32
  | .xpnd => 0x16#32 | .emit => 0x17#32 | .done => 0x28#32 | .error => 0x4F#32

theorem State.statusWord_eq (s : State) : s.statusWord = s.PHASE.status := by
  unfold State.statusWord State.errBit State.doneBit State.busy
  cases s.PHASE <;> decide

/-- Settles O38: `STATUS` is a function of the phase, and in IDLE it is 0. -/
theorem statusReadsLegalValues : Obligations.StatusReadsLegalValues := by
  refine ⟨fun s d v => ⟨?_, rfl⟩, State.statusWord_eq _⟩
  exact congrArg (fun w => Host.Outcome.next (s.returns w)) (State.statusWord_eq s)

/-- Settles O8: the reset values are written as they stand; `STATUS` and the pins follow from IDLE. -/
theorem resetLeavesIdle : Obligations.ResetLeavesIdle := by
  refine ⟨⟨rfl, rfl, rfl, rfl, rfl, State.statusWord_eq _, rfl, rfl⟩, fun s rest h => ?_⟩
  exact ⟨_, step_of_rst h, rfl, rfl, rfl, rfl, rfl, State.statusWord_eq _, rfl, rfl, rfl, rfl, rfl, rfl⟩

/-- Settles O9: at reset no byte is placed, no error recorded, no result valid and no run begun. -/
theorem runInvariantAtReset : Obligations.RunInvariantAtReset where
  msg := State.reset_wf
  errinfo := rfl
  hlen := by decide
  ohl := fun hb => Bool.noConfusion hb
  phase := trivial

end Sys2Proof.Machine
end

section
/-! Settles the statement about two runs that agree on what the host gave (10_state.md R38). A run from INIT, the host silent,
goes through the micro-operations of 40_host_interface.md R68 one by one, and what it leaves in `HEX` is the text of the
contract (R60), a function of `IV`, `LEN`, `OHL` and the message bytes below `LEN` alone. -/

namespace Sys2Proof.Machine

variable {s t v : State}

/-! ### Engine steps in a row -/

/-- The engine goes from one state to another in one turn for each phase of the list, each turn begun in the phase listed. -/
def EngineRun : List Phase → State → State → Prop
  | [], s, t => s = t
  | p :: ps, s, t => s.PHASE = p ∧ ∃ v, s.engineTurn = .next v ∧ EngineRun ps v t

theorem EngineRun.of_exec {p : Phase} {i : Instr} (hp : s.PHASE = p) (hu : p.uop = some i) (he : exec i s = .next t) :
    EngineRun [p] s t :=
  ⟨hp, t, (State.engineTurn_of_uop (hp ▸ hu)).trans he, rfl⟩

theorem EngineRun.append {ps qs : List Phase} (h : EngineRun ps s v) (h' : EngineRun qs v t) :
    EngineRun (ps ++ qs) s t := by
  induction ps generalizing s with
  | nil =>
    cases h
    exact h'
  | cons p ps ih =>
    obtain ⟨hp, w, hturn, hrest⟩ := h
    exact ⟨hp, w, hturn, ih hrest⟩

/-- While the host is silent the machine's steps are the engine's turns (R67; log 1). -/
theorem EngineRun.core_run {ps : List Phase} (h : EngineRun ps s t) (hin : s.inputs = []) :
    Sys2Proof.core.run ps.length s = .next t := by
  induction ps generalizing s with
  | nil => exact congrArg Host.Outcome.next h
  | cons p ps ih =>
    obtain ⟨-, w, hturn, hrest⟩ := h
    rw [List.length_cons, run_succ_of_step _ ((step_of_silent hin).trans hturn),
      ih hrest ((State.engineTurn_inputs hturn).trans hin)]

/-! ### The micro-operations that can stop, where they do not -/

theorem execLoad_of_le (h : 16 * s.BLK.toNat ≤ s.LEN.toNat) :
    execLoad s = .next { s with W := loadblock s.msgByte s.LEN.toNat s.BLK.toNat, RND := 0, PHASE := .wmix } :=
  if_neg (Nat.not_lt.2 h)

theorem execSupd_of_lt (h : s.RND.toNat < 3) :
    execSupd s = .next { s with S := supd s.S s.W s.RND.toNat, RND := s.RND + 1, PHASE := .wmix } :=
  congrArg Host.Outcome.next (if_pos h)

theorem execSupd_of_last (h : s.RND.toNat = 3) :
    execSupd s = .next { s with
      S := supd s.S s.W s.RND.toNat
      BLK := s.BLK + 1
      PHASE := if 16 * (s.BLK.toNat + 1) < s.LEN.toNat then .load else .fin } :=
  congrArg Host.Outcome.next (if_neg (show ¬ s.RND.toNat < 3 by omega))

theorem execXpnd_of_le (h : s.ACCLEN.toNat ≤ 16) :
    execXpnd s = .next { s with
      ACC := appendChunk s.ACC s.ACCLEN.toNat (chunk s.BASE s.CTR)
      ACCLEN := s.ACCLEN + 16
      CTR := add32 s.CTR 1
      PHASE := if needed s.OHL.toNat ≤ s.ACCLEN.toNat + 16 then .emit else .xpnd } :=
  if_neg (Nat.not_lt.2 h)

theorem execEmit_of_validLen (h : validLen s.OHL.toNat) :
    execEmit s = .next { s with
      HEX := writeHex s.HEX (hexString s.ACC.toList s.OHL.toNat)
      HLEN := s.OHL.setWidth 7
      PHASE := .done } := by
  obtain ⟨heven, -, hmax⟩ := h
  refine if_neg fun hshort => ?_
  have := (hexString_short_iff s.ACC s.OHL.toNat).1 hshort
  omega

/-! ### Stage B: a round, a block, all blocks -/

/-- One round on the pair of `S` and `W`: the mixing pass, then the update pass (R83, R85). -/
def mixRound (p : Vector Word 4 × Vector Word 4) (r : Nat) : Vector Word 4 × Vector Word 4 :=
  (supd p.1 (wmix p.1 p.2) r, wmix p.1 p.2)

theorem absorbBlock_eq_mixRound (M : Nat → Byte) (len : Nat) (S : Vector Word 4) (k : Nat) :
    absorbBlock M len S k = (mixRound (mixRound (mixRound (mixRound (S, loadblock M len k) 0) 1) 2) 3).1 := rfl

/-- The state at the beginning of round `r` of a block, with `S` and `W` as the rounds before left them. -/
def State.atRound (s : State) (p : Vector Word 4 × Vector Word 4) (r : BitVec 2) : State :=
  { s with S := p.1, W := p.2, RND := r, PHASE := .wmix }

theorem engineRun_wmix (hp : s.PHASE = .wmix) :
    EngineRun [.wmix] s { s with W := wmix s.S s.W, PHASE := .supd } :=
  .of_exec (i := .wmix) hp rfl rfl

/-- One of the first three rounds of a block (R83, R85). -/
theorem engineRun_round (s : State) (p : Vector Word 4 × Vector Word 4) {r : BitVec 2} (hr : r.toNat < 3) :
    EngineRun [.wmix, .supd] (s.atRound p r) (s.atRound (mixRound p r.toNat) (r + 1)) :=
  (engineRun_wmix (s := s.atRound p r) rfl).append (.of_exec rfl rfl (execSupd_of_lt hr))

/-- The last round of a block (R85). -/
theorem engineRun_last_round (s : State) (p : Vector Word 4 × Vector Word 4) :
    EngineRun [.wmix, .supd] (s.atRound p 3) { s with
      S := (mixRound p 3).1
      W := (mixRound p 3).2
      BLK := s.BLK + 1
      RND := 3
      PHASE := if 16 * (s.BLK.toNat + 1) < s.LEN.toNat then .load else .fin } :=
  (engineRun_wmix (s := s.atRound p 3) rfl).append (.of_exec rfl rfl (execSupd_of_last rfl))

/-- The micro-operations of one block (R68). -/
def blockPhases : List Phase := [.load, .wmix, .supd, .wmix, .supd, .wmix, .supd, .wmix, .supd]

theorem engineRun_block (hp : s.PHASE = .load) (hblk : s.inBlock) :
    ∃ W, EngineRun blockPhases s { s with
      S := absorbBlock s.msgByte s.LEN.toNat s.S s.BLK.toNat
      W := W
      BLK := s.BLK + 1
      RND := 3
      PHASE := if 16 * (s.BLK.toNat + 1) < s.LEN.toNat then .load else .fin } := by
  have load : EngineRun [.load] s (s.atRound (s.S, loadblock s.msgByte s.LEN.toNat s.BLK.toNat) 0) :=
    .of_exec (i := .load) hp rfl (execLoad_of_le (Nat.le_of_lt hblk))
  have round0 := load.append (engineRun_round _ _ (by decide))
  have round1 := round0.append (engineRun_round _ _ (by decide))
  have round2 := round1.append (engineRun_round _ _ (by decide))
  exact ⟨_, round2.append (engineRun_last_round _ _)⟩

/-- What the engine reads as the message depends on the message space, the host's duty and the run alone. -/
theorem State.msgByte_congr (hmsg : s.MSG = t.MSG) (hbroken : s.msgBroken = t.msgBroken) (hruns : s.runs = t.runs) :
    s.msgByte = t.msgByte := by
  funext a
  simp only [State.msgByte, hmsg, hbroken, hruns]

/-- Stage B from block `BLK` on, `n` blocks being left: `S` absorbs them in order, and FIN is next (R85, R86). -/
theorem engineRun_blocks {M : Nat → Byte} (n : Nat)
    (hp : s.PHASE = if 16 * s.BLK.toNat < s.LEN.toNat then .load else .fin)
    (hM : s.msgByte = M) (hn : s.BLK.toNat + n = nblk s.LEN.toNat) :
    ∃ W BLK RND, EngineRun (List.replicate n blockPhases).flatten s { s with
      S := (List.range' s.BLK.toNat n).foldl (absorbBlock M s.LEN.toNat) s.S
      W := W
      BLK := BLK
      RND := RND
      PHASE := .fin } := by
  have hlen : s.LEN.toNat < 2 ^ 32 := s.LEN.isLt
  rw [nblk_eq] at hn
  induction n generalizing s with
  | zero =>
    rw [if_neg (by omega)] at hp
    refine ⟨s.W, s.BLK, s.RND, ?_⟩
    rw [← hp]
    rfl
  | succ n ih =>
    have hblk : 16 * s.BLK.toNat < s.LEN.toNat := by omega
    have blk : (s.BLK + 1).toNat = s.BLK.toNat + 1 := BitVec.toNat_add_of_lt (by simp; omega)
    rw [if_pos hblk] at hp
    obtain ⟨W, block⟩ := engineRun_block hp hblk
    obtain ⟨W', BLK', RND', rest⟩ := ih (s := { s with
      S := absorbBlock s.msgByte s.LEN.toNat s.S s.BLK.toNat
      W := W
      BLK := s.BLK + 1
      RND := 3
      PHASE := if 16 * (s.BLK.toNat + 1) < s.LEN.toNat then .load else .fin })
      (by simp only [blk]) (by rw [← hM]; exact State.msgByte_congr rfl rfl rfl) (by simp only [blk]; omega) hlen
    simp only [blk, hM] at rest block
    rw [List.replicate_succ, List.flatten_cons, List.range'_succ, List.foldl_cons]
    exact ⟨W', BLK', RND', block.append rest⟩

/-! ### Stage C -/

theorem engineRun_fin (hp : s.PHASE = .fin) : EngineRun [.fin] s { s with BASE := stageC s.S, PHASE := .xpnd } :=
  .of_exec (i := .fin) hp rfl rfl

/-! ### Stage D: the expansion loop and the text -/

/-- A chunk at `ACCLEN` follows the valid bytes (R35, R95). -/
theorem appendChunk_take (acc : Vector Byte 32) (x : Vector Byte 16) {n : Nat} (h : n ≤ 16) :
    (appendChunk acc n x).toList.take (n + 16) = acc.toList.take n ++ x.toList := by
  apply List.ext_getElem
  · simp
    omega
  · intro k hk hk'
    have hk16 : k < n + 16 := by
      rw [List.length_take] at hk
      omega
    by_cases hkn : k < n
    · have hk32 : k < (acc.toList.take n).length := by
        rw [List.length_take, Vector.length_toList]
        omega
      rw [List.getElem_append_left hk32]
      simp [appendChunk, show ¬ n ≤ k by omega]
    · simp [appendChunk, Nat.min_eq_left (show n ≤ 32 by omega), show n ≤ k ∧ k - n < 16 by omega]

theorem accumulate_of_le {base : Vector Byte 16} {need : Nat} {acc : List Byte} (h : need ≤ acc.length) (fuel : Nat)
    (ctr : Word) : accumulate base need fuel ctr acc = acc := by
  cases fuel with
  | zero => rfl
  | succ fuel => exact if_neg (Nat.not_lt.2 h)

theorem accumulate_of_lt {base : Vector Byte 16} {need : Nat} {acc : List Byte} (h : acc.length < need) (fuel : Nat)
    (ctr : Word) : accumulate base need (fuel + 1) ctr acc =
      accumulate base need fuel (add32 ctr 1) (acc ++ (chunk base ctr).toList) :=
  if_pos h

/-- The valid bytes of the accumulator, `ACC[0 .. ACCLEN-1]` (R35). -/
def State.validBytes (s : State) : List Byte := s.ACC.toList.take s.ACCLEN.toNat

theorem State.validBytes_length (h : s.ACCLEN.toNat ≤ 32) : s.validBytes.length = s.ACCLEN.toNat := by
  simp [State.validBytes, h]

/-- The expansion loop from a multiple of 16 valid bytes on: it ends in EMIT with the bytes of the contract's loop, for
`needed` bytes or more as fuel (R95, R96). -/
theorem engineRun_expand (fuel : Nat) (hp : s.PHASE = .xpnd) (h16 : s.ACCLEN.toNat % 16 = 0)
    (hlt : s.ACCLEN.toNat < needed s.OHL.toNat) (hmax : needed s.OHL.toNat ≤ 32)
    (hfuel : needed s.OHL.toNat ≤ s.ACCLEN.toNat + fuel) :
    ∃ t : State, EngineRun (List.replicate ((needed s.OHL.toNat - s.ACCLEN.toNat + 15) / 16) .xpnd) s t ∧
      t = { s with ACC := t.ACC, ACCLEN := t.ACCLEN, CTR := t.CTR, PHASE := .emit } ∧
      needed s.OHL.toNat ≤ t.ACCLEN.toNat ∧
      t.validBytes = accumulate s.BASE (needed s.OHL.toNat) fuel s.CTR s.validBytes := by
  induction fuel generalizing s with
  | zero => omega
  | succ fuel ih =>
    have room : s.ACCLEN.toNat ≤ 16 := by omega
    have acclen : (s.ACCLEN + 16).toNat = s.ACCLEN.toNat + 16 := BitVec.toNat_add_of_lt (by simp; omega)
    have len := State.validBytes_length (s := s) (by omega)
    have first := EngineRun.of_exec (i := .xpnd) hp rfl (execXpnd_of_le room)
    rw [accumulate_of_lt (by omega)]
    have bytes : (appendChunk s.ACC s.ACCLEN.toNat (chunk s.BASE s.CTR)).toList.take (s.ACCLEN + 16).toNat =
        s.validBytes ++ (chunk s.BASE s.CTR).toList := by
      rw [acclen, appendChunk_take _ _ room, State.validBytes]
    by_cases hdone : needed s.OHL.toNat ≤ s.ACCLEN.toNat + 16
    · rw [if_pos hdone] at first
      rw [show (needed s.OHL.toNat - s.ACCLEN.toNat + 15) / 16 = 1 by omega, accumulate_of_le (by simp [len]; omega)]
      exact ⟨_, first, rfl, by simp only [acclen]; exact hdone, bytes⟩
    · rw [if_neg hdone] at first
      obtain ⟨t, rest, frame, enough, text⟩ := ih (s := { s with
        ACC := appendChunk s.ACC s.ACCLEN.toNat (chunk s.BASE s.CTR)
        ACCLEN := s.ACCLEN + 16
        CTR := add32 s.CTR 1
        PHASE := .xpnd }) rfl (by simp only [acclen]; omega) (by simp only [acclen]; omega) hmax
        (by simp only [acclen]; omega)
      simp only [State.validBytes, bytes] at text
      simp only [acclen] at rest
      rw [show (needed s.OHL.toNat - s.ACCLEN.toNat + 15) / 16 =
        (needed s.OHL.toNat - (s.ACCLEN.toNat + 16) + 15) / 16 + 1 by omega, List.replicate_succ]
      exact ⟨t, first.append rest, frame, enough, text⟩

/-- Only the first `needed` bytes are encoded (R98). -/
theorem hexString_take (acc : List Byte) {n ohl : Nat} (h : needed ohl ≤ n) :
    hexString (acc.take n) ohl = hexString acc ohl := by
  rw [hexString, hexString, List.take_take, Nat.min_eq_left h]

theorem writeHex_take (hex : Vector Byte 64) {H : List Byte} {n : Nat} (h : H.length = n) (hn : n ≤ 64) :
    (writeHex hex H).toList.take n = H := by
  apply List.ext_getElem
  · simpa [h] using hn
  · intro k hk hk'
    simp [writeHex, hk']

/-! ### The whole run -/

/-- The phases of a run in order (40_host_interface.md R68), from INIT to the last one before DONE. -/
def runPhases (len ohl : Nat) : List Phase :=
  [.init] ++ (List.replicate (nblk len) blockPhases).flatten ++ [.fin] ++ List.replicate ((ohl + 31) / 32) .xpnd ++ [.emit]

/-- A run takes `steps(L, n)` engine steps (R68, R141). -/
theorem runPhases_length (len ohl : Nat) : (runPhases len ohl).length = stepCount len ohl := by
  simp [runPhases, stepCount, blockPhases]
  omega

/-- Stages A to C: from INIT, whatever the other registers hold, to the base digest of the message (R60). -/
theorem engineRun_base (hp : s.PHASE = .init) :
    ∃ t, EngineRun ([.init] ++ (List.replicate (nblk s.LEN.toNat) blockPhases).flatten ++ [.fin]) s t ∧
      t.PHASE = .xpnd ∧ t.OHL = s.OHL ∧ t.CTR = 0 ∧ t.ACCLEN = 0 ∧
      t.BASE = stageC (absorb s.msgByte s.LEN.toNat (stageA s.IV s.LEN)) := by
  have init := EngineRun.of_exec (i := .init) hp rfl rfl
  have phase : (if s.LEN = 0 then Phase.fin else .load) = if 16 * 0 < s.LEN.toNat then .load else .fin := by
    rw [← ite_not]
    exact if_congr (by simp [Nat.pos_iff_ne_zero, BitVec.toNat_eq]) rfl rfl
  obtain ⟨W, BLK, RND, blocks⟩ := engineRun_blocks (M := s.msgByte) (nblk s.LEN.toNat) (s := { s with
    S := stageA s.IV s.LEN
    BLK := 0
    RND := 0
    CTR := 0
    ACCLEN := 0
    HLEN := 0
    PHASE := if s.LEN = 0 then .fin else .load }) phase
    (State.msgByte_congr rfl rfl rfl) (Nat.zero_add _)
  refine ⟨_, (init.append blocks).append (engineRun_fin rfl), rfl, rfl, rfl, rfl, ?_⟩
  rw [absorb, List.range_eq_range']
  rfl

/-- Stage D: from the base digest to DONE, with the text of the expansion (R60, R95 to R99). -/
theorem engineRun_text (hp : s.PHASE = .xpnd) (hv : validLen s.OHL.toNat) (hctr : s.CTR = 0) (hacc : s.ACCLEN = 0) :
    ∃ t, EngineRun (List.replicate ((s.OHL.toNat + 31) / 32) .xpnd ++ [.emit]) s t ∧
      t.PHASE = .done ∧ t.HLEN.toNat = s.OHL.toNat ∧
      t.HEX.toList.take s.OHL.toNat =
        hexString (accumulate s.BASE (needed s.OHL.toNat) (needed s.OHL.toNat) 0 []) s.OHL.toNat := by
  have ⟨heven, hmin, hmax⟩ := hv
  have hneeded : needed s.OHL.toNat = s.OHL.toNat / 2 := rfl
  have hzero : s.ACCLEN.toNat = 0 := by simp [hacc]
  obtain ⟨u, expand, frame, enough, text⟩ := engineRun_expand (needed s.OHL.toNat) hp (by omega) (by omega) (by omega)
    (by omega)
  have hohl : u.OHL = s.OHL := by rw [frame]
  have hemit : u.PHASE = .emit := by rw [frame]
  have emit := EngineRun.of_exec (i := .emit) hemit rfl (execEmit_of_validLen (hohl ▸ hv))
  rw [show (needed s.OHL.toNat - s.ACCLEN.toNat + 15) / 16 = (s.OHL.toNat + 31) / 32 by omega] at expand
  have nothing : s.validBytes = [] := by simp [State.validBytes, hzero]
  rw [hctr, nothing] at text
  have hex : hexString u.ACC.toList s.OHL.toNat =
      hexString (accumulate s.BASE (needed s.OHL.toNat) (needed s.OHL.toNat) 0 []) s.OHL.toNat := by
    rw [← text, State.validBytes, hexString_take _ enough]
  have full : (hexString u.ACC.toList s.OHL.toNat).length = s.OHL.toNat := by
    rw [hexString_length, Vector.length_toList]
    omega
  refine ⟨_, expand.append emit, rfl, ?_, ?_⟩
  · simp [hohl]
    omega
  · rw [hohl, ← hex]
    exact writeHex_take _ full hmax

/-- A run from INIT leaves the text of the contract, whatever the registers held before (R38, R60). -/
theorem engineRun_digestText (hp : s.PHASE = .init) (hv : validLen s.OHL.toNat) :
    ∃ t, EngineRun (runPhases s.LEN.toNat s.OHL.toNat) s t ∧ t.PHASE = .done ∧ t.HLEN.toNat = s.OHL.toNat ∧
      t.HEX.toList.take s.OHL.toNat = digestText s.IV s.msgByte s.LEN s.OHL := by
  obtain ⟨u, base, huphase, hohl, hctr, hacc, hbase⟩ := engineRun_base hp
  obtain ⟨t, rest, hdone, hlen, text⟩ := engineRun_text huphase (hohl ▸ hv) hctr hacc
  rw [hohl] at rest hlen text
  rw [hbase] at text
  refine ⟨t, ?_, hdone, hlen, text⟩
  simpa [runPhases] using base.append rest

/-- The contract reads the message below its length only (R41, R60). -/
theorem digestText_congr {M M' : Nat → Byte} {len : Word} (h : ∀ a, a < len.toNat → M a = M' a) (iv : Vector Word 4)
    (ohl : Word) : digestText iv M len ohl = digestText iv M' len ohl := by
  have blocks : absorb M len.toNat (stageA iv len) = absorb M' len.toNat (stageA iv len) := by
    refine List.foldl_ext _ _ _ fun S k _ => ?_
    rw [absorbBlock_eq_mixRound, absorbBlock_eq_mixRound, loadblock_congr fun a _ _ ha => h a ha]
  rw [digestText, digestText, blocks]

/-- Settles O44: both runs end with the text of the contract, which depends on what they agree on alone. -/
theorem resultIgnoresEarlierRegisters : Obligations.ResultIgnoresEarlierRegisters := by
  intro s t hs ht hsin htin hv hlen hohl hiv hmsg
  obtain ⟨u, runU, doneU, lenU, textU⟩ := engineRun_digestText hs hv
  obtain ⟨v, runV, doneV, lenV, textV⟩ := engineRun_digestText ht (hohl ▸ hv)
  rw [← hlen, ← hohl] at runV textV
  have stepsU := runU.core_run hsin
  have stepsV := runV.core_run htin
  rw [runPhases_length] at stepsU stepsV
  have text : u.HEX.toList.take s.OHL.toNat = v.HEX.toList.take s.OHL.toNat := by
    rw [textU, textV, ← hiv, digestText_congr hmsg]
  refine ⟨u, v, stepsU, stepsV, doneU, doneV, BitVec.eq_of_toNat_eq (by rw [lenU, lenV, hohl]), fun k hk => ?_⟩
  have char := congrArg (·[k.val]?) text
  simpa [List.getElem?_take, lenU ▸ hk] using char

end Sys2Proof.Machine
end

section
/-! Settles the statements about the message space (20_memory.md): no instruction writes it, what the host places is read back
and is what LOAD reads, a byte changed while BUSY makes every byte read a free value, and the three index faults. -/

namespace Sys2Proof.Machine

variable {s t : State}

/-! ### What an instruction and a step can do to the message -/

/-- The frame of every instruction on the host's side: the run number and the host's duty change by an accepted START only
(R64; log 6, log 7). -/
theorem exec_next_frame {i : Instr} (h : exec i s = .next t) :
    (t.MSG = s.MSG ∧ t.IV = s.IV ∧ t.inputs = s.inputs) ∧
    ((t.msgBroken = s.msgBroken ∧ t.runs = s.runs) ∨ (i = .start ∧ s.busy = false ∧ lenBad s.OHL = false)) := by
  cases i with
  | start =>
    obtain ⟨-, rfl⟩ | ⟨-, -, rfl⟩ | ⟨hb, hl, rfl⟩ := execStart_next h
    · simp
    · simp
    · simp [hb, hl]
  | clear => obtain ⟨-, rfl⟩ | ⟨-, rfl⟩ := execClear_next h <;> simp
  | wrLen v => obtain ⟨-, rfl⟩ | ⟨-, rfl⟩ := execWrLen_next h <;> simp
  | wrOhl v => obtain ⟨-, rfl⟩ | ⟨-, rfl⟩ := execWrOhl_next h <;> simp
  | wrCmd v | wrOther r v | rdCmd d | rdStatus d | rdErrinfo d | rdLen d | rdOhl d | rdHlen d | rdOther r d =>
    cases h
    simp
  | rdHex i6 d => obtain ⟨v, rfl⟩ | rfl := execRdHex_next (d := d) h <;> simp
  | init | wmix | fin =>
    cases h
    simp
  | load =>
    obtain ⟨-, rfl⟩ := execLoad_next h
    simp
  | supd => obtain ⟨-, rfl⟩ | ⟨-, rfl⟩ := execSupd_next h <;> simp
  | xpnd =>
    obtain ⟨-, rfl⟩ := execXpnd_next h
    simp
  | emit =>
    obtain ⟨-, rfl⟩ := execEmit_next h
    simp

/-- A host word is its three fields in order (R51). -/
theorem append_host_fields (w : HostWord) : BitVec.ofBool (hostWrf w) ++ hostReg w ++ hostData w = w := by
  apply BitVec.eq_of_toNat_eq
  have bound : w.toNat < 2 ^ 40 := w.isLt
  have wrf : (BitVec.ofBool (hostWrf w)).toNat = w.toNat / 2 ^ 39 := by
    rw [BitVec.toNat_ofBool, hostWrf, BitVec.getLsbD, Nat.toNat_testBit]
    omega
  have reg : (hostReg w).toNat = w.toNat / 2 ^ 32 % 2 ^ 7 := by
    rw [hostReg, BitVec.extractLsb'_toNat, Nat.shiftRight_eq_div_pow]
  have data : (hostData w).toNat = w.toNat % 2 ^ 32 := by
    rw [hostData, BitVec.extractLsb'_toNat, Nat.shiftRight_zero]
  rw [toNat_append_eq_add, toNat_append_eq_add, wrf, reg, data]
  omega

/-- Only the write of 1 to `CMD` decodes to START. -/
theorem decodeWrite_eq_start {r : BitVec 7} {v : Word} (h : decodeWrite r v = .start) : r = 0x00 ∧ v = 1 := by
  unfold decodeWrite at h
  by_cases hr : r = 0x00
  · by_cases hv : v = 1
    · exact ⟨hr, hv⟩
    · rw [if_pos hr, if_neg hv] at h
      split at h <;> cases h
  · rw [if_neg hr] at h
    (repeat' split at h) <;> cases h

theorem decodeRead_ne_start (r : BitVec 7) (d : Word) : decodeRead r d ≠ .start := by
  unfold decodeRead
  (repeat' split) <;> exact Instr.noConfusion

/-- START has one code word (R53). -/
theorem decodeHost_eq_start {w : HostWord} (h : decodeHost w = .start) : w = 0x8000000001#40 := by
  unfold decodeHost at h
  split at h
  case isTrue hwrf =>
    obtain ⟨hreg, hdata⟩ := decodeWrite_eq_start h
    rw [← append_host_fields w, hwrf, hreg, hdata]
    rfl
  case isFalse => exact absurd h (decodeRead_ne_start _ _)

theorem Phase.uop_ne_start (p : Phase) : p.uop ≠ some .start := by cases p <;> decide

/-- An engine turn, inverted: nothing, or an instruction other than START (R67). -/
theorem State.engineTurn_next (h : s.engineTurn = .next t) : t = s ∨ ∃ i, i ≠ .start ∧ exec i s = .next t := by
  cases hu : s.PHASE.uop with
  | none =>
    rw [State.engineTurn_of_not_busy ((Phase.uop_eq_none_iff _).1 hu)] at h
    cases h
    exact .inl rfl
  | some i =>
    rw [State.engineTurn_of_uop hu] at h
    exact .inr ⟨i, fun hi => Phase.uop_ne_start _ (hi ▸ hu), h⟩

/-- A step, inverted: nothing but the host's list, an instruction (START only as the host's word), a byte placed, or a reset
(R20, R67; log 1). -/
theorem step_next (h : step s = .next t) :
    (∃ l, t = s.setInputs l) ∨
    (∃ i l, exec i (s.setInputs l) = .next t ∧ (i = .start → s.inputs.head? = some (.word 0x8000000001#40))) ∨
    (∃ a b l, t = (s.setInputs l).placeByte a b) ∨
    (∃ l, t = (s.setInputs l).applyReset) := by
  cases hin : s.inputs with
  | nil =>
    rw [step_of_silent hin] at h
    obtain rfl | ⟨i, hi, he⟩ := State.engineTurn_next h
    · exact .inl ⟨t.inputs, rfl⟩
    · exact .inr (.inl ⟨i, s.inputs, he, fun hs => absurd hs hi⟩)
  | cons x rest =>
    cases x with
    | engine =>
      rw [step_of_engine hin] at h
      obtain rfl | ⟨i, hi, he⟩ := State.engineTurn_next h
      · exact .inl ⟨rest, rfl⟩
      · exact .inr (.inl ⟨i, rest, he, fun hs => absurd hs hi⟩)
    | word w =>
      rw [step_of_word hin] at h
      exact .inr (.inl ⟨_, rest, h, fun hs => by rw [List.head?_cons, decodeHost_eq_start hs]⟩)
    | wait =>
      rw [step_of_wait hin] at h
      exact .inr (.inl ⟨.rdStatus 0, _, h, Instr.noConfusion⟩)
    | place a b =>
      rw [step_of_place hin] at h
      cases h
      exact .inr (.inr (.inl ⟨a, b, rest, rfl⟩))
    | rst =>
      rw [step_of_rst hin] at h
      cases h
      exact .inr (.inr (.inr ⟨rest, rfl⟩))

/-- Settles O12, by the frame of every instruction. -/
theorem instructionsNeverWriteMessage : Obligations.InstructionsNeverWriteMessage := by
  intro i s t h
  obtain ⟨⟨hmsg, hiv, hin⟩, -⟩ := exec_next_frame h
  exact ⟨fun a => by rw [hmsg], hmsg, hiv, hin⟩

/-- Settles O11: of what a step can be, only a byte placed writes the message space (O12). -/
theorem everyStepKeepsMessageCanonical : Obligations.EveryStepKeepsMessageCanonical := by
  intro s t hwf h
  obtain ⟨l, rfl⟩ | ⟨i, l, hexec, -⟩ | ⟨a, b, l, rfl⟩ | ⟨l, rfl⟩ := step_next h
  · exact hwf
  · obtain ⟨-, hmsg, -, -⟩ := instructionsNeverWriteMessage i _ t hexec
    rw [hmsg]
    exact hwf
  · exact State.placeByte_wf a b hwf
  · exact hwf

/-! ### The index faults -/

/-- A meaning with a guard stops with its fault exactly where the guard is met, and is never refused. -/
theorem guarded_outcome {c : Prop} [Decidable c] {f : Fault} {u : State} {o : Host.Outcome State Fault Refusal}
    (h : o = if c then .fault f else .next u) : (∀ g, o = .fault g ↔ g = f ∧ c) ∧ ∀ r, o ≠ .refused r := by
  subst h
  by_cases hc : c <;> simp [hc, eq_comm]

/-- Settles O15: LOAD, XPND and EMIT have one guard each; every other instruction answers a next state. -/
theorem faultsExactlyAtMissingIndexes : Obligations.FaultsExactlyAtMissingIndexes := by
  intro i s
  have host : i.isHost = true → ∃ t, exec i s = .next t := fun hi => exec_of_isHost hi s
  cases i with
  | load =>
    have load := guarded_outcome (o := exec .load s) (c := s.LEN.toNat < 16 * s.BLK.toNat) rfl
    simpa using load
  | xpnd =>
    have xpnd := guarded_outcome (o := exec .xpnd s) (c := 16 < s.ACCLEN.toNat) rfl
    simpa using xpnd
  | emit =>
    have emit := guarded_outcome (o := exec .emit s)
      (c := (hexString s.ACC.toList s.OHL.toNat).length < s.OHL.toNat) rfl
    simpa [hexString_short_iff] using emit
  | init | wmix | supd | fin => simp [exec, execInit, execWmix, execSupd, execFin]
  | start | clear | wrCmd v | wrLen v | wrOhl v | wrOther r v | rdCmd d | rdStatus d | rdErrinfo d | rdLen d | rdOhl d
  | rdHlen d | rdHex i6 d | rdOther r d =>
    obtain ⟨t, ht⟩ := host rfl
    simp [ht]

/-! ### What LOAD reads -/

/-- Settles O23: a block is determined by the message bytes below its end and below `LEN`. -/
theorem loadReadsOnlyItsWindow : Obligations.LoadReadsOnlyItsWindow := by
  intro s t s' t' hs ht hblk hlen hmsg
  obtain ⟨-, rfl⟩ := execLoad_next hs
  obtain ⟨-, rfl⟩ := execLoad_next ht
  show loadblock s.msgByte s.LEN.toNat s.BLK.toNat = loadblock t.msgByte t.LEN.toNat t.BLK.toNat
  rw [← hblk, ← hlen]
  exact loadblock_congr fun a hlo hhi ha => hmsg a hlo (by omega) ha

/-- The four words of a block, its bytes in order (R42, R80). -/
theorem loadblock_eq (M : Nat → Byte) (len k : Nat) :
    loadblock M len k =
      let B := blockByte M len k
      #v[be32 (B 0) (B 1) (B 2) (B 3), be32 (B 4) (B 5) (B 6) (B 7), be32 (B 8) (B 9) (B 10) (B 11),
        be32 (B 12) (B 13) (B 14) (B 15)] := rfl

/-- Settles O24: each byte of the block is the placed one below `LEN` and the filler from there on. -/
theorem placedMessageIsWhatLoadReads : Obligations.PlacedMessageIsWhatLoadReads := by
  intro s hbroken hblk P hplaced B
  have byte : ∀ i : Fin 16, blockByte s.msgByte s.LEN.toNat s.BLK.toNat i.val = B i := by
    intro i
    rw [blockByte_eq]
    by_cases hi : 16 * s.BLK.toNat + i.val < s.LEN.toNat
    · rw [if_pos (by omega), State.msgByte_of_placed hbroken (hplaced i hi)]
      exact (if_pos hi).symm
    · rw [if_neg (by omega), fillByte_eq]
      exact (if_neg hi).symm
  refine (execLoad_of_le (Nat.le_of_lt hblk)).trans ?_
  rw [loadblock_eq]
  simp only [← byte]
  rfl

/-! ### A byte placed by the host -/

/-- Placing a byte outside BUSY, or the byte that stands there, is within the host's duty (R46). -/
theorem State.placeByte_of_allowed {a : Word} {b : Byte} (h : s.busy = false ∨ s.MSG.read a.toNat = some b) :
    s.placeByte a b = { s with MSG := s.MSG.write a.toNat b } := by
  obtain h | h := h <;> simp [State.placeByte, h]

/-- Changing a byte of the message while BUSY is not (R46). -/
theorem State.placeByte_of_change {a : Word} {b : Byte} (hb : s.busy = true) (hlen : a.toNat < s.LEN.toNat)
    (hne : s.MSG.read a.toNat ≠ some b) :
    s.placeByte a b = { s with MSG := s.MSG.write a.toNat b, msgBroken := true } := by
  simp [State.placeByte, hb, hlen, hne]

/-- Settles O40, by the reads after a write of the message space. -/
theorem placedByteReadsBack : Obligations.PlacedByteReadsBack := by
  intro s offset b rest hin hb
  rw [step_of_place hin, State.placeByte_of_allowed (s := s.setInputs rest) (.inl hb)]
  exact ⟨_, rfl, Memory.read_write_self _ _ _, fun a ha => Memory.read_write_of_ne _ _ ha, rfl⟩

/-- START's check accepts the valid lengths (R64, R111). -/
theorem lenBad_eq_false_iff (n : Word) : lenBad n = false ↔ validLen n.toNat := by
  simp only [lenBad, lenOdd_eq, lenShort_eq, lenLong_eq, validLen, Bool.or_eq_false_iff, decide_eq_false_iff_not]
  omega

/-- Once the message is broken, only an accepted START mends it or begins another run (log 7). -/
theorem step_keeps_broken (hbroken : s.msgBroken = true) (h : step s = .next t)
    (hstart : ¬ (s.busy = false ∧ validLen s.OHL.toNat ∧ s.inputs.head? = some (.word 0x8000000001#40))) :
    t.msgBroken = true ∧ t.runs = s.runs := by
  obtain ⟨l, rfl⟩ | ⟨i, l, hexec, hword⟩ | ⟨a, b, l, rfl⟩ | ⟨l, rfl⟩ := step_next h
  · exact ⟨hbroken, rfl⟩
  · obtain ⟨-, ⟨hsame, hruns⟩ | ⟨hi, hb, hl⟩⟩ := exec_next_frame hexec
    · exact ⟨hsame.trans hbroken, hruns⟩
    · exact absurd ⟨hb, (lenBad_eq_false_iff _).1 hl, hword hi⟩ hstart
  · exact ⟨by simp [hbroken], rfl⟩
  · exact ⟨hbroken, rfl⟩

/-- Settles O41: a change breaks the message, no step but an accepted START mends it, and a byte written over itself is no
change. -/
theorem changedMessageIsUnspecified : Obligations.ChangedMessageIsUnspecified := by
  refine ⟨fun s offset b rest hin hb hlen hne => ?_, fun s t hbroken h hstart => ?_, fun s offset b rest hin hread => ?_⟩
  · rw [step_of_place hin, State.placeByte_of_change (s := s.setInputs rest) hb hlen hne]
    exact ⟨_, rfl, fun a => Memory.read_write _ _ a _, fun a => State.msgByte_of_broken a rfl, rfl⟩
  · obtain ⟨hbroken', hruns⟩ := step_keeps_broken hbroken h hstart
    exact ⟨hbroken', hruns, fun a => hruns ▸ State.msgByte_of_broken a hbroken'⟩
  · rw [step_of_place hin, State.placeByte_of_allowed (s := s.setInputs rest) (.inr hread)]
    have reads : ∀ a, (s.MSG.write offset.toNat b).read a = s.MSG.read a := by
      intro a
      rw [Memory.read_write]
      split
      case isTrue ha => rw [ha, hread]
      case isFalse => rfl
    refine ⟨_, rfl, fun a => ⟨reads a, ?_⟩, rfl, fun ⟨rising, _⟩ => Memory.write_same rising hread⟩
    simp only [State.msgByte, State.setInputs_MSG, reads, State.setInputs_msgBroken, State.setInputs_runs]

end Sys2Proof.Machine
end

section
/-! Settles the statements about the encoding (30_encoding.md R50 to R58): host words by their three fields, the two halves of
the decoder against the encoder and against the opcode map, and the turns that run a decoded word. -/

namespace Sys2Proof.Machine

/-! ### The operands a row admits -/

theorem reservedCommand_iff {v : Word} : reservedCommand v = true ↔ v ≠ 1 ∧ v ≠ 2 := by simp [reservedCommand]

theorem ignoredWrite_iff {r : BitVec 7} : ignoredWrite r = true ↔ r ≠ 0x00 ∧ r ≠ 0x03 ∧ r ≠ 0x04 := by
  simp [ignoredWrite, and_assoc]

theorem reservedRegister_iff {r : BitVec 7} : reservedRegister r = true ↔ 0x06 ≤ r.toNat ∧ r.toNat ≤ 0x3F := by
  simp [reservedRegister]

/-! ### Decoding a host word written by its fields -/

theorem decodeHost_write (r : BitVec 7) (v : Word) : decodeHost (1#1 ++ r ++ v) = decodeWrite r v := by
  simp [decodeHost]

theorem decodeHost_read (r : BitVec 7) (d : Word) : decodeHost (0#1 ++ r ++ d) = decodeRead r d := by
  simp [decodeHost, -BitVec.getLsbD_eq_getElem]

theorem decodeWrite_of_reservedCommand {v : Word} (h : reservedCommand v = true) : decodeWrite 0x00 v = .wrCmd v := by
  obtain ⟨start, clear⟩ := reservedCommand_iff.1 h
  rw [decodeWrite, if_pos rfl, if_neg start, if_neg clear]

theorem decodeWrite_of_ignoredWrite {r : BitVec 7} (h : ignoredWrite r = true) (v : Word) :
    decodeWrite r v = .wrOther r v := by
  obtain ⟨cmd, len, ohl⟩ := ignoredWrite_iff.1 h
  rw [decodeWrite, if_neg cmd, if_neg len, if_neg ohl]

/-- The control registers 0x00 to 0x05 stand below the reserved ones, `HEX` above (R51). -/
theorem decodeRead_of_reservedRegister {r : BitVec 7} (h : reservedRegister r = true) (d : Word) :
    decodeRead r d = .rdOther r d := by
  obtain ⟨low, high⟩ := reservedRegister_iff.1 h
  fun_cases decodeRead r d
  case case8 => rfl
  case case7 => omega
  all_goals (subst r; contradiction)

/-- The registers from 0x40 on are `HEX[0..63]` (R51). -/
theorem decodeRead_of_hex {r : BitVec 7} (h : 0x40 ≤ r.toNat) (d : Word) :
    decodeRead r d = .rdHex (r.extractLsb' 0 6) d := by
  fun_cases decodeRead r d
  case case7 => rfl
  case case8 => contradiction
  all_goals (subst r; contradiction)

/-- The register number of `HEX[i]`: at or above 0x40, with `i` in its low six bits (R51). -/
theorem hexRegister_toNat_index (i : BitVec 6) :
    0x40 ≤ (1#1 ++ i : BitVec 7).toNat ∧ (1#1 ++ i : BitVec 7).extractLsb' 0 6 = i := by
  revert i
  decide

/-- A register number at or above 0x40 is 1 and an index. -/
theorem append_hexIndex : ∀ r : BitVec 7, 0x40 ≤ r.toNat → 1#1 ++ r.extractLsb' 0 6 = r := by decide

/-- A read of `HEX` as R53's pattern `01`, the index and `DATA`, and by the fields of R51. -/
theorem hexWord_eq_fields (i : BitVec 6) (d : Word) : (0b01#2 ++ i ++ d : HostWord) = 0#1 ++ (1#1 ++ i) ++ d := by
  have first : ∀ i : BitVec 6, (0b01#2 ++ i : BitVec 8) = 0#1 ++ (1#1 ++ i) := by decide
  rw [first]

/-- Settles O2, constructor by constructor: a row with fixed registers decodes by computing on its first byte, the rows
with a condition on an operand by the lemma about that condition. -/
theorem decodeUndoesEncode : Obligations.DecodeUndoesEncode := by
  intro i h
  refine (?_ : decode (encode i) = .ok i)
  cases i with
  | start | clear | init | load | wmix | supd | fin | xpnd | emit => rfl
  | wrCmd v => exact congrArg _ ((decodeHost_write 0x00 v).trans (decodeWrite_of_reservedCommand h))
  | wrLen v => exact congrArg _ (decodeHost_write 0x03 v)
  | wrOhl v => exact congrArg _ (decodeHost_write 0x04 v)
  | wrOther r v => exact congrArg _ ((decodeHost_write r v).trans (decodeWrite_of_ignoredWrite h v))
  | rdCmd d => exact congrArg _ (decodeHost_read 0x00 d)
  | rdStatus d => exact congrArg _ (decodeHost_read 0x01 d)
  | rdErrinfo d => exact congrArg _ (decodeHost_read 0x02 d)
  | rdLen d => exact congrArg _ (decodeHost_read 0x03 d)
  | rdOhl d => exact congrArg _ (decodeHost_read 0x04 d)
  | rdHlen d => exact congrArg _ (decodeHost_read 0x05 d)
  | rdHex i d =>
    obtain ⟨hex, index⟩ := hexRegister_toNat_index i
    rw [encode, hexWord_eq_fields, decode, decodeHost_read, decodeRead_of_hex hex, index]
  | rdOther r d => exact congrArg _ ((decodeHost_read r d).trans (decodeRead_of_reservedRegister h d))

/-- Settles O1: each word is the code word of its instruction (O2). -/
theorem sampleWordsDecode : Obligations.SampleWordsDecode :=
  ⟨decodeUndoesEncode .start rfl, decodeUndoesEncode .clear rfl, decodeUndoesEncode (.wrLen 17) rfl,
    decodeUndoesEncode (.wrOhl 32) rfl, decodeUndoesEncode (.rdStatus 0) rfl, decodeUndoesEncode (.rdHex 7 0) rfl,
    decodeUndoesEncode .init rfl, decodeUndoesEncode .load rfl, decodeUndoesEncode .wmix rfl,
    decodeUndoesEncode .supd rfl, decodeUndoesEncode .fin rfl, decodeUndoesEncode .xpnd rfl,
    decodeUndoesEncode .emit rfl⟩

/-- Settles O36: the four encodings are code words of well-formed instructions (O2), whose meanings touch the port alone. -/
theorem reservedEncodingsHaveNoEffect : Obligations.ReservedEncodingsHaveNoEffect := fun _ r v =>
  ⟨fun start clear => ⟨decodeUndoesEncode (.wrCmd v) (reservedCommand_iff.2 ⟨start, clear⟩), rfl⟩,
    fun cmd len ohl => ⟨decodeUndoesEncode (.wrOther r v) (ignoredWrite_iff.2 ⟨cmd, len, ohl⟩), rfl⟩,
    fun low high => ⟨decodeUndoesEncode (.rdOther r v) (reservedRegister_iff.2 ⟨low, high⟩), rfl⟩,
    decodeUndoesEncode (.rdCmd v) rfl, rfl⟩

/-! ### What the decoder answers -/

theorem encode_decodeWrite (r : BitVec 7) (v : Word) : encode (decodeWrite r v) = .host (1#1 ++ r ++ v) := by
  fun_cases decodeWrite r v
  case case1 | case2 =>
    subst r v
    rfl
  case case6 => rfl
  all_goals (subst r; rfl)

theorem encode_decodeRead (r : BitVec 7) (d : Word) : encode (decodeRead r d) = .host (0#1 ++ r ++ d) := by
  fun_cases decodeRead r d
  case case7 hex => rw [encode, hexWord_eq_fields, append_hexIndex r hex]
  case case8 => rfl
  all_goals (subst r; rfl)

/-- The code word of a decoded host word is the word: its fields are all there (R51). -/
theorem encode_decodeHost (w : HostWord) : encode (decodeHost w) = .host w := by
  rw [← append_host_fields w]
  cases hostWrf w with
  | false => exact (congrArg encode (decodeHost_read _ _)).trans (encode_decodeRead _ _)
  | true => exact (congrArg encode (decodeHost_write _ _)).trans (encode_decodeWrite _ _)

theorem decodeWrite_isHost_wf (r : BitVec 7) (v : Word) :
    (decodeWrite r v).isHost = true ∧ (decodeWrite r v).wf = true := by
  fun_cases decodeWrite r v
  case case3 cmd start clear => exact ⟨rfl, reservedCommand_iff.2 ⟨start, clear⟩⟩
  case case6 cmd len ohl => exact ⟨rfl, ignoredWrite_iff.2 ⟨cmd, len, ohl⟩⟩
  all_goals exact ⟨rfl, rfl⟩

theorem decodeRead_isHost_wf (r : BitVec 7) (d : Word) :
    (decodeRead r d).isHost = true ∧ (decodeRead r d).wf = true := by
  fun_cases decodeRead r d
  case case8 =>
    refine ⟨rfl, reservedRegister_iff.2 ?_⟩
    bv_omega
  all_goals exact ⟨rfl, rfl⟩

theorem decodeHost_isHost_wf (w : HostWord) : (decodeHost w).isHost = true ∧ (decodeHost w).wf = true := by
  unfold decodeHost
  split
  · exact decodeWrite_isHost_wf _ _
  · exact decodeRead_isHost_wf _ _

/-! ### The opcode map -/

/-- Two host words are equal when their fields are (R51). -/
theorem hostWord_eq_iff {w w' : HostWord} :
    w = w' ↔ hostWrf w = hostWrf w' ∧ hostReg w = hostReg w' ∧ hostData w = hostData w' := by
  refine ⟨fun h => by simp [h], fun ⟨wrf, reg, data⟩ => ?_⟩
  rw [← append_host_fields w, ← append_host_fields w', wrf, reg, data]

/-- The test of a row of the opcode map, field by field. -/
theorem matchesRow_iff {w mask pat : HostWord} :
    (w &&& mask == pat) = true ↔ (hostWrf w && hostWrf mask) = hostWrf pat ∧
      hostReg w &&& hostReg mask = hostReg pat ∧ hostData w &&& hostData mask = hostData pat := by
  rw [beq_iff_eq, hostWord_eq_iff, hostWrf, BitVec.getLsbD_and, hostReg, BitVec.extractLsb'_and, hostData,
    BitVec.extractLsb'_and]
  rfl

/-- The mask that keeps `REG` whole. -/
theorem reg_and_mask (r : BitVec 7) : r &&& 0x7F#7 = r := BitVec.and_allOnes

/-- The mask that keeps `DATA` whole. -/
theorem data_and_mask (v : Word) : v &&& 0xFFFFFFFF#32 = v := BitVec.and_allOnes

/-- The mask and match of `HEX`: the top bit of `REG`. -/
theorem hex_mask_iff : ∀ r : BitVec 7, r &&& 0x40#7 = 0x40#7 ↔ 0x40 ≤ r.toNat := by decide

/-- The first matching row is the row of the decoded instruction (R53): both are found by the same tests on the fields, in the
same order. -/
theorem firstHostRow_eq_row (w : HostWord) : firstHostRow w = (decodeHost w).row := by
  simp only [firstHostRow, hostTable, List.findIdx_cons, List.findIdx_nil, cond_eq_ite, matchesRow_iff, decodeHost]
  generalize hostWrf w = wrf, hostReg w = r, hostData w = v
  cases wrf with
  | false =>
    fun_cases decodeRead r v <;> simp_all [Instr.row, hostWrf, hostReg, hostData, reg_and_mask, hex_mask_iff]
  | true =>
    fun_cases decodeWrite r v <;> simp_all [Instr.row, hostWrf, hostReg, hostData, reg_and_mask, data_and_mask]

theorem row_lt_of_isHost {i : Instr} (h : i.isHost = true) : i.row < 14 := by
  cases i with
  | init | load | wmix | supd | fin | xpnd | emit => exact absurd h (by decide)
  | start | clear | wrCmd v | wrLen v | wrOhl v | wrOther r v | rdCmd d | rdStatus d | rdErrinfo d | rdLen d | rdOhl d
  | rdHlen d | rdHex i6 d | rdOther r d => simp [Instr.row]

/-- Settles O3: the first matching row is the decoded instruction's, and that is a host row. -/
theorem hostDecodeFollowsOpcodeMap : Obligations.HostDecodeFollowsOpcodeMap := by
  intro w
  obtain ⟨host, wf⟩ := decodeHost_isHost_wf w
  have row := firstHostRow_eq_row w
  exact ⟨row ▸ row_lt_of_isHost host, row.symm, host, wf, encode_decodeHost w⟩

/-! ### Turns -/

theorem Phase.uop_of_decode {p : Phase} {i : Instr} (h : decode (.uop p.code) = .ok i) : p.uop = some i := by
  cases p <;> cases h <;> rfl

/-- Settles O6: a host word is placed at the head of the host's list; a `PHASE` code sets the phase and puts the engine's turn
there. -/
theorem fetchWordRunsNext : Obligations.FetchWordRunsNext := by
  refine ⟨fun s w _ => step_of_word (s := s.withFetchWord 40 w) rfl, fun s p i h => ?_⟩
  have placed : s.withFetchWord 8 p.code.toNat = (s.setPhase p).setInputs (.engine :: s.inputs) := by
    simp [State.withFetchWord, State.fetching]
  rw [placed, step_of_engine rfl]
  exact State.engineTurn_of_uop (Phase.uop_of_decode h)

/-- A poll returns the status and leaves the list that follows from it (R58; log 15). -/
theorem State.waitTurn_eq (s : State) (rest : List Input) :
    s.waitTurn rest = .next { s with
      ret := some s.statusWord
      inputs := if s.busy then .engine :: .wait :: rest else rest } := rfl

/-- Settles O7, by the two outcomes of a poll. -/
theorem waitPollsStatus : Obligations.WaitPollsStatus := by
  intro s rest hin
  rw [step_of_wait hin, State.waitTurn_eq]
  exact ⟨fun hb => by rw [if_pos hb], fun hb => by simp [hb]⟩

end Sys2Proof.Machine
end

section
/-! Settles the statement that every step keeps the run invariant (40_host_interface.md R67, 60_exceptions.md R117): the
invariant is shown once for each micro-operation and once for each thing the host does. -/

namespace Sys2Proof.Machine

variable {s t : State}

/-! ### The port: what no micro-operation and no rule of the invariant sees -/

/-- The state with another host's side: pending actions, value returned, count of draws (log 1, log 5, log 8). -/
def State.withPort (s : State) (l : List Input) (r : Option Word) (d : Nat) : State :=
  { s with inputs := l, ret := r, draws := d }

/-- A micro-operation does the same whatever stands on the host's side of the port (R67, R139). -/
theorem exec_withPort {i : Instr} (hi : i.isHost = false) (h : exec i s = .next t) (l : List Input) (r : Option Word)
    (d : Nat) : exec i (s.withPort l r d) = .next (t.withPort l r d) := by
  cases i with
  | start | clear | wrCmd v | wrLen v | wrOhl v | wrOther r v | rdCmd d | rdStatus d | rdErrinfo d | rdLen d | rdOhl d
  | rdHlen d | rdHex i6 d | rdOther r d => cases hi
  | init | wmix | fin =>
    cases h
    rfl
  | load =>
    obtain ⟨hle, rfl⟩ := execLoad_next h
    exact execLoad_of_le hle
  | supd =>
    obtain ⟨hr, rfl⟩ | ⟨hr, rfl⟩ := execSupd_next h
    · exact execSupd_of_lt hr
    · exact execSupd_of_last hr
  | xpnd =>
    obtain ⟨hle, rfl⟩ := execXpnd_next h
    exact execXpnd_of_le hle
  | emit =>
    obtain ⟨⟨heven, hmax⟩, rfl⟩ := execEmit_next h
    refine if_neg fun hshort => ?_
    have : s.OHL.toNat % 2 = 1 ∨ 64 < s.OHL.toNat := (hexString_short_iff s.ACC s.OHL.toNat).1 hshort
    omega

theorem Phase.uop_isHost {p : Phase} {i : Instr} (h : p.uop = some i) : i.isHost = false := by
  cases p <;> cases h <;> rfl

/-- So does an engine turn (R139). -/
theorem State.engineTurn_withPort (h : s.engineTurn = .next t) (l : List Input) (r : Option Word) (d : Nat) :
    (s.withPort l r d).engineTurn = .next (t.withPort l r d) := by
  cases hu : s.PHASE.uop with
  | none =>
    have idle := (Phase.uop_eq_none_iff _).1 hu
    rw [State.engineTurn_of_not_busy idle] at h
    cases h
    exact State.engineTurn_of_not_busy idle
  | some i =>
    rw [State.engineTurn_of_uop hu] at h
    exact (State.engineTurn_of_uop (s := s.withPort l r d) hu).trans (exec_withPort (Phase.uop_isHost hu) h l r d)

/-- No rule of the invariant speaks of the port. -/
theorem State.Inv.withPort (h : s.Inv) (l : List Input) (r : Option Word) (d : Nat) : (s.withPort l r d).Inv :=
  ⟨h.msg, h.errinfo, h.hlen, h.ohl, h.phase⟩

/-! ### The characters of a result -/

/-- Whatever the bytes, the text is made of lowercase hex digits (R16, R98). -/
theorem isHexChar_of_mem_hexString {acc : List Byte} {n : Nat} {c : Byte} (h : c ∈ hexString acc n) :
    isHexChar c := by
  obtain ⟨b, -, hc⟩ := List.mem_flatMap.1 (List.mem_of_mem_take h)
  simp only [hex2, List.mem_cons, List.not_mem_nil, or_false] at hc
  obtain rfl | rfl := hc <;> exact isHexChar_hexdigit _

/-- Enough bytes give a text of the requested length (R98). -/
theorem hexString_length_of_le {acc : List Byte} {n : Nat} (heven : n % 2 = 0) (h : needed n ≤ acc.length) :
    (hexString acc n).length = n := by
  have half : needed n = n / 2 := rfl
  rw [hexString_length]
  omega

/-- Below the text's length the result registers hold the text (R98). -/
theorem writeHex_getElem_mem (hex : Vector Byte 64) {H : List Byte} {k : Fin 64} (h : k.val < H.length) :
    (writeHex hex H)[k] ∈ H := by
  simp [writeHex, h]

/-! ### The run invariant, engine step by engine step -/

/-- Outside BUSY the two parameters are free: the phase rules do not speak of them (R61). -/
theorem State.Inv.withParams (h : s.Inv) (hb : s.busy = false) (len ohl : Word) :
    { s with LEN := len, OHL := ohl }.Inv := by
  refine ⟨h.msg, h.errinfo, h.hlen, fun busy => absurd (hb.symm.trans busy) Bool.false_ne_true, ?_⟩
  have phase := h.phase
  simp only [State.phaseInv] at phase ⊢
  rw [State.busy] at hb
  cases hp : s.PHASE with
  | idle | error => trivial
  | done =>
    rw [hp] at phase
    exact phase
  | init | load | wmix | supd | fin | xpnd | emit =>
    rw [hp] at hb
    cases hb

/-- What is left to show of a state that a running engine's step gives: the registers that step writes. -/
theorem State.Inv.of_engine_step (h : s.Inv) (hb : s.busy = true) (hmsg : t.MSG = s.MSG) (herr : t.ERRINFO = s.ERRINFO)
    (hohl : t.OHL = s.OHL) (hphase : t.PHASE ≠ .error) (hhlen : t.HLEN.toNat ≤ 64 ∧ t.HLEN.toNat % 2 = 0)
    (inv : t.phaseInv) : t.Inv where
  msg := hmsg ▸ h.msg
  errinfo := by
    have none : s.PHASE ≠ .error := by
      intro hp
      rw [State.busy, hp] at hb
      cases hb
    have noError := h.errinfo
    rw [if_neg none] at noError
    rw [if_neg hphase, herr, noError]
  hlen := hhlen
  ohl := fun _ => hohl ▸ h.ohl hb
  phase := inv

/-- INIT leaves the block loop before block 0, or over if there is none (R75, R76). -/
theorem execInit_keeps_inv (h : s.Inv) (hp : s.PHASE = .init) : ∃ t, exec .init s = .next t ∧ t.Inv := by
  have hb : s.busy = true := congrArg Phase.busy hp
  by_cases hlen : s.LEN = 0#32
  · refine ⟨_, rfl, h.of_engine_step hb rfl rfl rfl (by simp [hlen]) (by simp) ?_⟩
    simp [State.phaseInv, State.blocksDone, nblk_eq, hlen]
  · refine ⟨_, rfl, h.of_engine_step hb rfl rfl rfl (by simp [hlen]) (by simp) ?_⟩
    have pos : s.LEN.toNat ≠ 0 := fun h0 => hlen (BitVec.eq_of_toNat_eq h0)
    simpa [State.phaseInv, hlen, State.inBlock] using Nat.pos_of_ne_zero pos

/-- LOAD and WMIX stay in the block, with nothing but words of Stage B written (R81, R83). -/
theorem execLoad_keeps_inv (h : s.Inv) (hp : s.PHASE = .load) : ∃ t, exec .load s = .next t ∧ t.Inv := by
  have hb : s.busy = true := congrArg Phase.busy hp
  have inv := h.phase
  rw [State.phaseInv, hp] at inv
  exact ⟨_, execLoad_of_le (Nat.le_of_lt inv.1), h.of_engine_step hb rfl rfl rfl Phase.noConfusion h.hlen inv⟩

theorem execWmix_keeps_inv (h : s.Inv) (hp : s.PHASE = .wmix) : ∃ t, exec .wmix s = .next t ∧ t.Inv := by
  have hb : s.busy = true := congrArg Phase.busy hp
  have inv := h.phase
  rw [State.phaseInv, hp] at inv
  exact ⟨_, rfl, h.of_engine_step hb rfl rfl rfl Phase.noConfusion h.hlen inv⟩

/-- SUPD stays in the block for three rounds; after the fourth the next block is there, or all are done (R85, R86). -/
theorem execSupd_keeps_inv (h : s.Inv) (hp : s.PHASE = .supd) : ∃ t, exec .supd s = .next t ∧ t.Inv := by
  have hb : s.busy = true := congrArg Phase.busy hp
  have inv := h.phase
  rw [State.phaseInv, hp] at inv
  by_cases hr : s.RND.toNat < 3
  · exact ⟨_, execSupd_of_lt hr, h.of_engine_step hb rfl rfl rfl Phase.noConfusion h.hlen inv⟩
  · obtain ⟨hblk, clear⟩ := inv
    have hblk : 16 * s.BLK.toNat < s.LEN.toNat := hblk
    have bound : s.LEN.toNat < 2 ^ 32 := s.LEN.isLt
    have blk : (s.BLK + 1).toNat = s.BLK.toNat + 1 := BitVec.toNat_add_of_lt (by simp; omega)
    have hr3 : s.RND.toNat = 3 := by omega
    refine ⟨_, execSupd_of_last hr3, ?_⟩
    by_cases hnext : 16 * (s.BLK.toNat + 1) < s.LEN.toNat
    · refine h.of_engine_step hb rfl rfl rfl (by simp [hnext]) h.hlen ?_
      simp only [State.phaseInv, hnext, if_true, State.inBlock, blk]
      exact ⟨trivial, clear⟩
    · refine h.of_engine_step hb rfl rfl rfl (by simp [hnext]) h.hlen ?_
      simp only [State.phaseInv, hnext, if_false, State.blocksDone, blk, nblk_eq]
      exact ⟨by omega, clear⟩

/-- FIN leaves no byte expanded, and at least one is needed (R91, R96). -/
theorem execFin_keeps_inv (h : s.Inv) (hp : s.PHASE = .fin) : ∃ t, exec .fin s = .next t ∧ t.Inv := by
  have hb : s.busy = true := congrArg Phase.busy hp
  have inv := h.phase
  rw [State.phaseInv, hp] at inv
  obtain ⟨done, hctr, hacc, hhlen⟩ := inv
  obtain ⟨-, hmin, -⟩ := h.ohl hb
  have some_needed : 0 < needed s.OHL.toNat := Nat.div_pos hmin (by decide)
  refine ⟨_, rfl, h.of_engine_step hb rfl rfl rfl Phase.noConfusion h.hlen ?_⟩
  show s.blocksDone ∧ s.HLEN = 0 ∧ _ ∧ _ ∧ s.ACCLEN.toNat < needed s.OHL.toNat
  simp [done, hctr, hacc, hhlen, some_needed]

/-- XPND is run once or twice, 16 bytes each time (R96, R97). -/
theorem execXpnd_keeps_inv (h : s.Inv) (hp : s.PHASE = .xpnd) : ∃ t, exec .xpnd s = .next t ∧ t.Inv := by
  have hb : s.busy = true := congrArg Phase.busy hp
  have inv := h.phase
  rw [State.phaseInv, hp] at inv
  obtain ⟨done, hhlen, hacc, hctr, hlt⟩ := inv
  obtain ⟨-, -, hmax⟩ := h.ohl hb
  have half : needed s.OHL.toNat = s.OHL.toNat / 2 := rfl
  have acclen : (s.ACCLEN + 16).toNat = s.ACCLEN.toNat + 16 := BitVec.toNat_add_of_lt (by simp; omega)
  have ctr : (add32 s.CTR 1).toNat = s.CTR.toNat + 1 := BitVec.toNat_add_of_lt (by simp; omega)
  refine ⟨_, execXpnd_of_le (by omega), ?_⟩
  by_cases enough : needed s.OHL.toNat ≤ s.ACCLEN.toNat + 16
  · refine h.of_engine_step hb rfl rfl rfl (by simp [enough]) h.hlen ?_
    simp only [State.phaseInv, enough, if_true, acclen, ctr]
    exact ⟨done, hhlen, by omega, by omega, trivial⟩
  · refine h.of_engine_step hb rfl rfl rfl (by simp [enough]) h.hlen ?_
    simp only [State.phaseInv, enough, if_false, acclen, ctr]
    exact ⟨done, hhlen, by omega, by omega, by omega⟩

/-- EMIT leaves `OHL` characters, each a hex digit (R98, R99). -/
theorem execEmit_keeps_inv (h : s.Inv) (hp : s.PHASE = .emit) : ∃ t, exec .emit s = .next t ∧ t.Inv := by
  have hb : s.busy = true := congrArg Phase.busy hp
  have hv := h.ohl hb
  have ⟨heven, _, hmax⟩ := hv
  have hlen : (s.OHL.setWidth 7).toNat = s.OHL.toNat := by simp; omega
  have half : needed s.OHL.toNat = s.OHL.toNat / 2 := rfl
  have text : (hexString s.ACC.toList s.OHL.toNat).length = s.OHL.toNat :=
    hexString_length_of_le heven (by rw [Vector.length_toList]; omega)
  refine ⟨_, execEmit_of_validLen hv, h.of_engine_step hb rfl rfl rfl Phase.noConfusion ?_ ?_⟩
  · simp only [hlen]
    exact ⟨hmax, heven⟩
  · simp only [State.phaseInv, hlen]
    exact ⟨hv, fun k hk => isHexChar_of_mem_hexString (writeHex_getElem_mem _ (text.symm ▸ hk))⟩

/-- The micro-operation of a running engine's phase completes and keeps the invariant (R117). -/
theorem exec_uop_keeps_inv {p : Phase} {i : Instr} (h : s.Inv) (hp : s.PHASE = p) (hu : p.uop = some i) :
    ∃ t, exec i s = .next t ∧ t.Inv := by
  cases p with
  | idle | done | error => cases hu
  | init => cases hu; exact execInit_keeps_inv h hp
  | load => cases hu; exact execLoad_keeps_inv h hp
  | wmix => cases hu; exact execWmix_keeps_inv h hp
  | supd => cases hu; exact execSupd_keeps_inv h hp
  | fin => cases hu; exact execFin_keeps_inv h hp
  | xpnd => cases hu; exact execXpnd_keeps_inv h hp
  | emit => cases hu; exact execEmit_keeps_inv h hp

/-- The engine's turn keeps the invariant, stopping nowhere (R67, R117). -/
theorem State.engineTurn_keeps_inv (h : s.Inv) : ∃ t, s.engineTurn = .next t ∧ t.Inv := by
  cases hu : s.PHASE.uop with
  | none => exact ⟨s, State.engineTurn_of_not_busy ((Phase.uop_eq_none_iff _).1 hu), h⟩
  | some i =>
    rw [State.engineTurn_of_uop hu]
    exact exec_uop_keeps_inv h rfl hu

/-! ### The run invariant, action by action of the host -/

/-- The error value of three constraints of which one is violated, and not both bounds (R29, R113). -/
theorem errinfoWord_mem_errorValues : ∀ long short odd : Bool, (odd || short || long) = true →
    (long && short) = false → errinfoWord long short odd ∈ errorValues := by decide

/-- A rejected length leaves an error value (R29, R113). -/
theorem lenErrinfo_mem_errorValues {n : Word} (h : lenBad n = true) : lenErrinfo n ∈ errorValues := by
  refine errinfoWord_mem_errorValues _ _ _ h ?_
  simp only [lenLong_eq, lenShort_eq, Bool.and_eq_false_iff, decide_eq_false_iff_not]
  omega

/-- An accepted START leaves INIT next, with a valid length (R64). -/
theorem State.Inv.beginRun (h : s.Inv) (hv : validLen s.OHL.toNat) : s.beginRun.Inv :=
  ⟨h.msg, rfl, h.hlen, fun _ => hv, trivial⟩

/-- A rejected START leaves the error recorded (R112, R113). -/
theorem State.Inv.raiseInvalidParameter (h : s.Inv) {long short odd : Bool}
    (he : errinfoWord long short odd ∈ errorValues) : (s.raiseInvalidParameter long short odd).Inv :=
  ⟨h.msg, he, h.hlen, fun hb => Bool.noConfusion hb, trivial⟩

/-- CLEAR leaves no error (R66). -/
theorem State.Inv.toIdle (h : s.Inv) : s.toIdle.Inv := ⟨h.msg, rfl, h.hlen, fun hb => Bool.noConfusion hb, trivial⟩

/-- A reset leaves no error, no result and no run (R130). -/
theorem State.Inv.applyReset (h : s.Inv) : s.applyReset.Inv :=
  ⟨h.msg, rfl, by simp, fun hb => Bool.noConfusion hb, trivial⟩

/-- A byte placed leaves the message space canonical (R40). -/
theorem State.Inv.placeByte (h : s.Inv) (a : Word) (b : Byte) : (s.placeByte a b).Inv :=
  ⟨State.placeByte_wf a b h.msg, h.errinfo, h.hlen, h.ohl, h.phase⟩

/-- Every host transaction keeps the invariant (R64 to R66, R61, R62). -/
theorem exec_isHost_keeps_inv {i : Instr} (hi : i.isHost = true) (h : s.Inv) (he : exec i s = .next t) : t.Inv := by
  have port := h.withPort s.inputs
  have silent : s.returnsNothing.Inv := port none s.draws
  cases i with
  | init | load | wmix | supd | fin | xpnd | emit => cases hi
  | start =>
    obtain ⟨-, rfl⟩ | ⟨-, hl, rfl⟩ | ⟨-, hl, rfl⟩ := execStart_next he
    · exact silent
    · exact silent.raiseInvalidParameter (lenErrinfo_mem_errorValues hl)
    · exact silent.beginRun ((lenBad_eq_false_iff _).1 hl)
  | clear =>
    obtain ⟨-, rfl⟩ | ⟨-, rfl⟩ := execClear_next he
    · exact silent
    · exact silent.toIdle
  | wrLen v =>
    obtain ⟨-, rfl⟩ | ⟨hb, rfl⟩ := execWrLen_next he
    · exact silent
    · exact silent.withParams hb v s.OHL
  | wrOhl v =>
    obtain ⟨-, rfl⟩ | ⟨hb, rfl⟩ := execWrOhl_next he
    · exact silent
    · exact silent.withParams hb s.LEN v
  | wrCmd v | wrOther r v =>
    cases he
    exact silent
  | rdCmd d | rdStatus d | rdErrinfo d | rdLen d | rdOhl d | rdHlen d | rdOther r d =>
    cases he
    exact port (some _) s.draws
  | rdHex i6 d =>
    obtain ⟨v, rfl⟩ | rfl := execRdHex_next (d := d) he
    · exact port (some v) s.draws
    · exact port (some _) (s.draws + 1)

theorem exec_isHost_next_inv {i : Instr} (hi : i.isHost = true) (h : s.Inv) : ∃ t, exec i s = .next t ∧ t.Inv := by
  obtain ⟨t, he⟩ := exec_of_isHost hi s
  exact ⟨t, he, exec_isHost_keeps_inv hi h he⟩

/-- Settles O10, by who acts next: the engine, the host's transaction or poll, the host on the message, or `rst`. -/
theorem everyStepKeepsRunInvariant : Obligations.EveryStepKeepsRunInvariant := by
  intro s h
  have withInputs : ∀ l, (s.setInputs l).Inv := fun l => h.withPort l s.ret s.draws
  cases hin : s.inputs with
  | nil =>
    rw [step_of_silent hin]
    exact State.engineTurn_keeps_inv h
  | cons x rest =>
    cases x with
    | engine =>
      rw [step_of_engine hin]
      exact State.engineTurn_keeps_inv (withInputs rest)
    | word w =>
      rw [step_of_word hin]
      exact exec_isHost_next_inv (decodeHost_isHost_wf w).1 (withInputs rest)
    | wait =>
      rw [step_of_wait hin]
      exact exec_isHost_next_inv rfl (withInputs _)
    | place a b => exact ⟨_, step_of_place hin, (withInputs rest).placeByte a b⟩
    | rst => exact ⟨_, step_of_rst hin, (withInputs rest).applyReset⟩

end Sys2Proof.Machine
end

section
/-! Settles the statements about single host transactions (40_host_interface.md R61 to R67) and about whole runs: the run
after an accepted START (R68), the contract of the digest (R70) and the `DIGEST` call (R69). -/

namespace Sys2Proof.Machine

variable {s t : State}

/-! ### Whose turn it is -/

/-- Settles O4: the host's word is decoded, the engine's phase selects. -/
theorem stepRunsDecodedInstruction : Obligations.StepRunsDecodedInstruction := by
  refine ⟨fun s w rest i hin hd => ?_, fun s i hin hd => ?_, fun s rest i hin hd => ?_⟩
  · cases hd
    exact step_of_word hin
  · rw [step_of_silent hin]
    exact State.engineTurn_of_uop (Phase.uop_of_decode hd)
  · rw [step_of_engine hin]
    exact State.engineTurn_of_uop (Phase.uop_of_decode hd)

/-! ### Writes and commands -/

theorem execStart_of_busy (hb : s.busy = true) : execStart s = .next s.returnsNothing := if_pos hb

theorem execStart_of_validLen (hb : s.busy = false) (hv : validLen s.OHL.toNat) :
    execStart s = .next s.returnsNothing.beginRun := by
  rw [execStart, if_neg (ne_true_of_eq_false hb), (lenBad_eq_false_iff _).2 hv]
  rfl

theorem execStart_of_not_validLen (hb : s.busy = false) (hv : ¬ validLen s.OHL.toNat) :
    execStart s = .next (s.returnsNothing.raiseInvalidParameter (lenLong s.OHL) (lenShort s.OHL) (lenOdd s.OHL)) := by
  rw [execStart, if_neg (ne_true_of_eq_false hb), if_pos]
  exact eq_true_of_ne_false fun h => hv ((lenBad_eq_false_iff _).1 h)

/-- The error value as a sum, one term a constraint (R112). -/
theorem errinfoWord_eq : ∀ long short odd : Bool, errinfoWord long short odd =
    BitVec.ofNat 32 (1 + (if odd then 0x100 else 0) + (if short then 0x200 else 0) + (if long then 0x400 else 0)) := by
  decide

theorem lenErrinfo_eq (n : Word) : lenErrinfo n =
    BitVec.ofNat 32 (1 + (if n.toNat % 2 = 1 then 0x100 else 0) + (if n.toNat < 2 then 0x200 else 0) +
      (if 64 < n.toNat then 0x400 else 0)) := by
  simp only [lenErrinfo, errinfoWord_eq, lenOdd_eq, lenShort_eq, lenLong_eq, decide_eq_true_eq]

/-- Settles O31, by START's three outcomes. -/
theorem startChecksLengthAndBegins : Obligations.StartChecksLengthAndBegins := by
  refine fun s => ⟨execStart_of_busy, execStart_of_validLen, fun hb hv => ?_⟩
  rw [← lenErrinfo_eq]
  exact execStart_of_not_validLen hb hv

theorem execClear_of_busy (hb : s.busy = true) : execClear s = .next s.returnsNothing := if_pos hb

theorem execClear_of_not_busy (hb : s.busy = false) : execClear s = .next s.returnsNothing.toIdle :=
  if_neg (ne_true_of_eq_false hb)

/-- Settles O34, by CLEAR's two outcomes; `STATUS` in IDLE is 0. -/
theorem clearReturnsToIdle : Obligations.ClearReturnsToIdle := fun _ =>
  ⟨fun hb => ⟨_, execClear_of_not_busy hb, rfl, State.statusWord_eq _⟩, execClear_of_busy⟩

/-- Settles O35, by whether the engine is BUSY. -/
theorem parameterWritesStoreWhole : Obligations.ParameterWritesStoreWhole := by
  intro s v
  simp only [exec, execWrLen, execWrOhl]
  cases hb : s.busy with
  | true => exact ⟨rfl, rfl⟩
  | false => exact ⟨rfl, rfl⟩

/-- Settles O33: the busy outcomes of START (O31), CLEAR (O34) and the parameter writes (O35). -/
theorem busyIgnoresWrites : Obligations.BusyIgnoresWrites := by
  intro s v hb
  obtain ⟨len, ohl⟩ := parameterWritesStoreWhole s v
  rw [if_pos hb] at len ohl
  exact ⟨execStart_of_busy hb, execClear_of_busy hb, len, ohl⟩

/-! ### Reads -/

/-- `STATUS` as a sum of its fields (R28). -/
theorem Phase.status_eq (p : Phase) : p.status = BitVec.ofNat 32 (p.code.toNat +
    (if 1 ≤ p.code.toNat ∧ p.code.toNat ≤ 7 then 0x10 else 0) + (if p.code.toNat = 8 then 0x20 else 0) +
    (if p.code.toNat = 15 then 0x40 else 0)) := by
  cases p <;> rfl

/-- Settles O37: each read returns its register, `STATUS` by its fields and `HLEN` zero-extended. -/
theorem controlReadsReturnRegisters : Obligations.ControlReadsReturnRegisters := by
  intro s d
  refine ⟨rfl, ?_, rfl, rfl, rfl, ?_⟩
  · rw [← Phase.status_eq, ← State.statusWord_eq]
    rfl
  · rw [BitVec.ofNat_toNat]
    rfl

/-- Settles O39, by the two outcomes of the read. -/
theorem hexReadsTheResultInDone : Obligations.HexReadsTheResultInDone := by
  refine fun s i d => ⟨fun hdone hi => ?_, fun hfree => ⟨_, if_neg hfree⟩⟩
  rw [BitVec.ofNat_toNat]
  exact if_pos ⟨hdone, hi⟩

/-! ### The `DIGEST` call as host words -/

/-- A host word from its first byte and its data, as a number (R51). -/
theorem ofNat_hostWord (n : Nat) (v : Word) :
    BitVec.ofNat 8 n ++ v = BitVec.ofNat 40 (n * 2 ^ 32 + v.toNat) := by
  apply BitVec.eq_of_toNat_eq
  have hv : v.toNat < 2 ^ 32 := v.isLt
  rw [toNat_append_eq_add, BitVec.toNat_ofNat, BitVec.toNat_ofNat]
  omega

theorem hostInput_wrLen (v : Word) : hostInput (.wrLen v) = [.word (BitVec.ofNat 40 (0x83 * 2 ^ 32 + v.toNat))] :=
  congrArg (fun w => [Input.word w]) (ofNat_hostWord 0x83 v)

theorem hostInput_wrOhl (v : Word) : hostInput (.wrOhl v) = [.word (BitVec.ofNat 40 (0x84 * 2 ^ 32 + v.toNat))] :=
  congrArg (fun w => [Input.word w]) (ofNat_hostWord 0x84 v)

/-- The first byte of a read of `HEX[k]` (R53). -/
theorem hexByte_eq {k : Nat} (hk : k < 64) : 0b01#2 ++ BitVec.ofNat 6 k = BitVec.ofNat 8 (0x40 + k) := by
  apply BitVec.eq_of_toNat_eq
  rw [toNat_append_eq_add, BitVec.toNat_ofNat, BitVec.toNat_ofNat, BitVec.toNat_ofNat]
  omega

theorem hostInput_rdHex {k : Nat} (hk : k < 64) :
    hostInput (.rdHex (BitVec.ofNat 6 k) 0) = [.word (BitVec.ofNat 40 ((0x40 + k) * 2 ^ 32))] := by
  have noData : (0x40 + k) * 2 ^ 32 + (0 : Word).toNat = (0x40 + k) * 2 ^ 32 := Nat.add_zero _
  rw [hostInput, encode, hexByte_eq hk, ofNat_hostWord, noData]

/-- Settles O46: the words of R53, the character reads one by one. -/
theorem digestCallExpandsToHostWords : Obligations.DigestCallExpandsToHostWords := by
  refine ⟨fun len n => ?_, fun n hn => ?_, fun n => rfl⟩
  · rw [digestCall, hostInput_wrLen, hostInput_wrOhl]
    rfl
  · have reads : ((List.range n).flatMap fun k => hostInput (.rdHex (BitVec.ofNat 6 k) 0)) =
        (List.range n).map fun k => Input.word (BitVec.ofNat 40 ((0x40 + k) * 2 ^ 32)) := by
      rw [List.map_eq_flatMap]
      exact List.flatMap_congr fun k hk => hostInput_rdHex ((List.mem_range.1 hk).trans_le hn)
    rw [← reads]
    rfl

/-! ### The run after an accepted START -/

theorem EngineRun.take {ps : List Phase} {k : Nat} (h : EngineRun ps s t) (hk : k < ps.length) :
    ∃ u, EngineRun (ps.take k) s u ∧ u.PHASE = ps[k] := by
  induction ps generalizing s k with
  | nil => exact absurd hk (Nat.not_lt_zero k)
  | cons p ps ih =>
    obtain ⟨hp, w, hturn, hrest⟩ := h
    cases k with
    | zero => exact ⟨s, rfl, hp⟩
    | succ k =>
      obtain ⟨u, hrun, hu⟩ := ih hrest (Nat.lt_of_succ_lt_succ hk)
      exact ⟨u, ⟨hp, w, hturn, hrun⟩, hu⟩

/-- The phase at place `j` of a block (R68). -/
theorem blockPhases_getElem? : ∀ j, j < 9 →
    blockPhases[j]? = some (if j = 0 then .load else if j % 2 = 1 then .wmix else .supd) := by decide

theorem flatten_blockPhases_length (n : Nat) : (List.replicate n blockPhases).flatten.length = 9 * n := by
  simp [blockPhases, Nat.mul_comm]

theorem flatten_blockPhases_getElem? {n i : Nat} (h : i < 9 * n) : (List.replicate n blockPhases).flatten[i]? =
    some (if i % 9 = 0 then .load else if i % 9 % 2 = 1 then .wmix else .supd) := by
  induction n generalizing i with
  | zero => omega
  | succ n ih =>
    rw [List.replicate_succ, List.flatten_cons]
    by_cases hi : i < 9
    · rw [List.getElem?_append_left hi, blockPhases_getElem? i hi, Nat.mod_eq_of_lt hi]
    · rw [List.getElem?_append_right (Nat.not_lt.1 hi)]
      have := ih (i := i - 9) (by omega)
      rwa [show (i - 9) % 9 = i % 9 by omega] at this

/-- The phases in order are the phases step by step (R68), part by part of the run. -/
theorem runPhases_getElem {len ohl k : Nat} (h : k < (runPhases len ohl).length) :
    (runPhases len ohl)[k] = runPhase len ohl k := by
  rw [← Option.some_inj, ← List.getElem?_eq_getElem]
  rw [runPhases_length, stepCount] at h
  simp only [runPhases, runPhase, List.getElem?_append, List.length_append, List.length_singleton,
    flatten_blockPhases_length, List.length_replicate]
  have part : k = 0 ∨ (0 < k ∧ k ≤ 9 * nblk len) ∨ k = 9 * nblk len + 1 ∨
      (9 * nblk len + 1 < k ∧ k ≤ 9 * nblk len + 1 + (ohl + 31) / 32) ∨
      k = 9 * nblk len + 1 + (ohl + 31) / 32 + 1 := by
    omega
  obtain rfl | blocks | fin | expand | emit := part
  · simp (disch := omega) only [if_pos]
    rfl
  · simp (disch := omega) only [if_pos, if_neg, flatten_blockPhases_getElem?]
  · simp (disch := omega) only [if_pos, if_neg]
    rw [show k - (1 + 9 * nblk len) = 0 by omega]
    rfl
  · simp (disch := omega) only [if_pos, if_neg, List.getElem?_replicate]
  · simp (disch := omega) only [if_neg]
    rw [show k - (1 + 9 * nblk len + 1 + (ohl + 31) / 32) = 0 by omega]
    rfl

theorem runPhase_busy (len ohl k : Nat) : (runPhase len ohl k).busy = true := by
  unfold runPhase
  (repeat' split) <;> rfl

theorem runPhases_busy {len ohl : Nat} {p : Phase} (h : p ∈ runPhases len ohl) : p.busy = true := by
  obtain ⟨k, hk, rfl⟩ := List.getElem_of_mem h
  rw [runPhases_getElem hk]
  exact runPhase_busy len ohl k

theorem digest_of_validLen {n : Word} (hv : validLen n.toNat) (iv : Vector Word 4) (M : Nat → Byte) (len : Word) :
    digest iv M len n = .ok (digestText iv M len n) := by
  rw [digest, (lenBad_eq_false_iff n).2 hv]
  rfl

theorem digest_of_not_validLen {n : Word} (hv : ¬ validLen n.toNat) (iv : Vector Word 4) (M : Nat → Byte)
    (len : Word) : digest iv M len n = .error (lenErrinfo n) :=
  if_pos (eq_true_of_ne_false fun h => hv ((lenBad_eq_false_iff n).1 h))

/-- The run from INIT with the host silent, step by step (R68): each phase before the end, then the digest. -/
theorem run_of_init (hp : s.PHASE = .init) (hin : s.inputs = []) (hv : validLen s.OHL.toNat) :
    (∀ k, k < stepCount s.LEN.toNat s.OHL.toNat → ∃ u : State, Sys2Proof.core.run k s = .next u ∧
      u.PHASE = runPhase s.LEN.toNat s.OHL.toNat k ∧ u.busy = true) ∧
    ∃ t : State, Sys2Proof.core.run (stepCount s.LEN.toNat s.OHL.toNat) s = .next t ∧ t.PHASE = .done ∧
      t.HLEN.toNat = s.OHL.toNat ∧ digest s.IV s.msgByte s.LEN s.OHL = .ok (t.HEX.toList.take s.OHL.toNat) := by
  obtain ⟨t, run, hdone, hhlen, text⟩ := engineRun_digestText hp hv
  have steps := run.core_run hin
  rw [runPhases_length] at steps
  refine ⟨fun k hk => ?_, t, steps, hdone, hhlen, text ▸ digest_of_validLen hv _ _ _⟩
  rw [← runPhases_length] at hk
  obtain ⟨u, start, hu⟩ := run.take hk
  have reached := start.core_run hin
  rw [List.length_take_of_le hk.le] at reached
  have phase := hu.trans (runPhases_getElem hk)
  exact ⟨u, reached, phase, (congrArg Phase.busy phase).trans (runPhase_busy _ _ _)⟩

/-- Settles O42: an accepted START leaves INIT next, with the host silent and a valid length. -/
theorem acceptedStartComputesDigest : Obligations.AcceptedStartComputesDigest := by
  intro s0 s hb hin hv hstart
  cases (execStart_of_validLen hb hv).symm.trans hstart
  exact run_of_init (s := s0.returnsNothing.beginRun) rfl hin hv

/-! ### The contract -/

theorem prefix_accumulate (base : Vector Byte 16) (need fuel : Nat) (ctr : Word) (acc : List Byte) :
    acc <+: accumulate base need fuel ctr acc := by
  induction fuel generalizing ctr acc with
  | zero => exact List.prefix_refl acc
  | succ fuel ih =>
    by_cases h : acc.length < need
    · rw [accumulate_of_lt h]
      exact (List.prefix_append _ _).trans (ih _ _)
    · rw [accumulate_of_le (Nat.not_lt.1 h)]

/-- Asking for more bytes appends to the bytes of the smaller request (R70). -/
theorem accumulate_prefix_of_le (base : Vector Byte 16) {need need' fuel fuel' : Nat} (hneed : need ≤ need')
    (hfuel : fuel ≤ fuel') (ctr : Word) (acc : List Byte) :
    accumulate base need fuel ctr acc <+: accumulate base need' fuel' ctr acc := by
  induction fuel generalizing fuel' ctr acc with
  | zero => exact prefix_accumulate base need' fuel' ctr acc
  | succ fuel ih =>
    by_cases h : acc.length < need
    · obtain ⟨fuel', rfl⟩ := Nat.exists_eq_succ_of_ne_zero (show fuel' ≠ 0 by omega)
      rw [accumulate_of_lt h, accumulate_of_lt (h.trans_le hneed)]
      exact ih (Nat.le_of_succ_le_succ hfuel) _ _
    · rw [accumulate_of_le (Nat.not_lt.1 h)]
      exact prefix_accumulate base need' fuel' ctr acc

/-- As many iterations as bytes are needed suffice (R60). -/
theorem le_accumulate_length (base : Vector Byte 16) {need fuel : Nat} (ctr : Word) (acc : List Byte)
    (h : need ≤ acc.length + fuel) : need ≤ (accumulate base need fuel ctr acc).length := by
  induction fuel generalizing ctr acc with
  | zero => exact h
  | succ fuel ih =>
    by_cases hlt : acc.length < need
    · rw [accumulate_of_lt hlt]
      refine ih _ _ ?_
      rw [List.length_append, Vector.length_toList]
      omega
    · rw [accumulate_of_le (Nat.not_lt.1 hlt)]
      exact Nat.not_lt.1 hlt

/-- The text grows with the bytes and with the requested length (R98). -/
theorem hexString_prefix {acc acc' : List Byte} {m n : Nat} (hacc : acc <+: acc') (h : m ≤ n) :
    hexString acc m <+: hexString acc' n := by
  have needed_le : needed m ≤ needed n := Nat.div_le_div_right h
  have bytes : acc.take (needed m) <+: acc'.take (needed n) :=
    (hacc.take _).trans (List.take_prefix_take_left needed_le)
  exact ((bytes.flatMap hex2).take m).trans (List.take_prefix_take_left h)

theorem digestText_length {n : Word} (hv : validLen n.toNat) (iv : Vector Word 4) (M : Nat → Byte) (len : Word) :
    (digestText iv M len n).length = n.toNat :=
  hexString_length_of_le hv.1 (le_accumulate_length _ _ _ (Nat.le_add_left _ _))

theorem digestText_prefix {m n : Word} (h : m.toNat ≤ n.toNat) (iv : Vector Word 4) (M : Nat → Byte) (len : Word) :
    digestText iv M len m <+: digestText iv M len n :=
  have needed_le : needed m.toNat ≤ needed n.toNat := Nat.div_le_div_right h
  hexString_prefix (accumulate_prefix_of_le _ needed_le needed_le _ _) h

/-- Settles O45: the clauses are facts about the text of a valid length. -/
theorem digestContract : Obligations.DigestContract := by
  intro iv M len n hv
  refine ⟨_, digest_of_validLen hv iv M len, digestText_length hv iv M len, fun c hc => isHexChar_of_mem_hexString hc,
    fun hempty M' => ?_, fun m hm hle => ?_⟩
  · have noByte : ∀ a, a < len.toNat → M' a = M a := by simp [hempty]
    rw [digest_of_validLen hv, digestText_congr noByte]
  · have shorter := List.prefix_iff_eq_take.1 (digestText_prefix hle iv M len)
    rw [digestText_length hm] at shorter
    rw [digest_of_validLen hm, ← shorter]

/-! ### The `DIGEST` call as a run -/

/-- One step answers a next state. -/
def StepsTo (s t : State) : Prop := step s = .next t

/-- Finitely many steps, whatever their number. -/
abbrev Reaches : State → State → Prop := Relation.ReflTransGen StepsTo

theorem exists_run_of_reaches (h : Reaches s t) : ∃ k, Sys2Proof.core.run k s = .next t := by
  induction h using Relation.ReflTransGen.head_induction_on with
  | refl => exact ⟨0, rfl⟩
  | head hstep _ ih =>
    obtain ⟨k, hk⟩ := ih
    exact ⟨k + 1, (run_succ_of_step k hstep).trans hk⟩

/-- The step that takes a well-formed host instruction's word off the list runs that instruction (R44, R53). -/
theorem step_of_hostInput {i : Instr} {w : HostWord} {rest : List Input} (hwf : i.wf = true) (he : encode i = .host w)
    (hin : s.inputs = hostInput i ++ rest) : step s = exec i (s.setInputs rest) := by
  have decoded : decodeHost w = i := by
    have := decodeUndoesEncode i hwf
    rw [he] at this
    exact Except.ok.inj this
  have head : s.inputs = .word w :: rest := by rw [hin, hostInput, he]; rfl
  rw [step_of_word head, decoded]

/-- One poll of WAIT as a step (R58; log 15). -/
theorem stepsTo_of_poll (s : State) (rest : List Input) (r : Option Word) (d : Nat) :
    StepsTo (s.withPort (.wait :: rest) r d)
      (s.withPort (if s.busy then .engine :: .wait :: rest else rest) (some s.statusWord) d) :=
  step_of_wait rfl

/-- WAIT takes the engine through the rest of its run and then returns the status (R58; log 15). -/
theorem EngineRun.reaches_after_wait {s : State} {ps : List Phase} (h : EngineRun ps s t)
    (hps : ∀ p ∈ ps, p.busy = true) (ht : t.busy = false) (rest : List Input) (r : Option Word) (d : Nat) :
    Reaches (s.withPort (.wait :: rest) r d) (t.withPort rest (some t.statusWord) d) := by
  induction ps generalizing s r with
  | nil =>
    cases h
    have last := stepsTo_of_poll t rest r d
    rw [if_neg (ne_true_of_eq_false ht)] at last
    exact .single last
  | cons p ps ih =>
    obtain ⟨hp, v, hturn, hrest⟩ := h
    have hb : s.busy = true := (congrArg Phase.busy hp).trans (hps p List.mem_cons_self)
    have first := stepsTo_of_poll s rest r d
    rw [if_pos hb] at first
    have turn : StepsTo (s.withPort (.engine :: .wait :: rest) (some s.statusWord) d)
        (v.withPort (.wait :: rest) (some s.statusWord) d) :=
      (step_of_engine rfl).trans (State.engineTurn_withPort hturn _ _ _)
    exact .head first (.head turn (ih hrest (fun q hq => hps q (List.mem_cons_of_mem p hq)) _))

/-- Bytes placed in order from an offset on (R58). -/
def placeFrom (i : Nat) (bytes : List Byte) : List Input :=
  (bytes.zipIdx i).map fun p => Input.place (BitVec.ofNat 32 p.2) p.1

theorem placeMessage_eq_placeFrom (bytes : List Byte) : placeMessage bytes = placeFrom 0 bytes := rfl

theorem placeFrom_cons (i : Nat) (b : Byte) (bytes : List Byte) :
    placeFrom i (b :: bytes) = .place (BitVec.ofNat 32 i) b :: placeFrom (i + 1) bytes := rfl

/-- Placing bytes outside BUSY from offset `i` on: they stand there, the offsets below are as before, and nothing else
changes (R40, R58). -/
theorem reaches_placed (bytes : List Byte) {i : Nat} {rest : List Input} (hb : s.busy = false)
    (hi : i + bytes.length ≤ 2 ^ 32) (hin : s.inputs = placeFrom i bytes ++ rest) :
    ∃ m : Memory, Reaches s { s with MSG := m, inputs := rest } ∧ (∀ a, a < i → m.read a = s.MSG.read a) ∧
      ∀ (k : Nat) (hk : k < bytes.length), m.read (i + k) = some bytes[k] := by
  induction bytes generalizing s i with
  | nil =>
    have done : s = { s with MSG := s.MSG, inputs := rest } := by
      rw [show rest = s.inputs from hin.symm]
    exact ⟨s.MSG, done ▸ .refl, fun _ _ => rfl, fun k hk => absurd hk (Nat.not_lt_zero k)⟩
  | cons b bytes ih =>
    rw [List.length_cons] at hi
    rw [placeFrom_cons, List.cons_append] at hin
    have offset : (BitVec.ofNat 32 i).toNat = i := by
      rw [BitVec.toNat_ofNat]
      omega
    have placed := step_of_place hin
    rw [State.placeByte_of_allowed (s := s.setInputs (placeFrom (i + 1) bytes ++ rest)) (.inl hb), offset] at placed
    obtain ⟨m, reach, below, above⟩ := ih (i := i + 1) (s := { s with
      MSG := s.MSG.write i b
      inputs := placeFrom (i + 1) bytes ++ rest }) hb (by omega) rfl
    refine ⟨m, .head placed reach, fun a ha => ?_, fun k hk => ?_⟩
    · rw [below a (by omega)]
      exact Memory.read_write_of_ne _ _ (by omega)
    · cases k with
      | zero =>
        rw [Nat.add_zero, below i (by omega)]
        exact Memory.read_write_self _ _ _
      | succ k =>
        have later := above k (Nat.lt_of_succ_lt_succ hk)
        rwa [Nat.add_assoc, Nat.add_comm 1 k] at later

/-- A parameter write of the call outside BUSY, as a step (R61). -/
theorem stepsTo_of_wrLen {v : Word} {rest : List Input} (hb : s.busy = false)
    (hin : s.inputs = hostInput (.wrLen v) ++ rest) : StepsTo s { s with LEN := v, ret := none, inputs := rest } :=
  (step_of_hostInput rfl rfl hin).trans (if_neg (ne_true_of_eq_false hb))

theorem stepsTo_of_wrOhl {v : Word} {rest : List Input} (hb : s.busy = false)
    (hin : s.inputs = hostInput (.wrOhl v) ++ rest) : StepsTo s { s with OHL := v, ret := none, inputs := rest } :=
  (step_of_hostInput rfl rfl hin).trans (if_neg (ne_true_of_eq_false hb))

/-- The call up to its START, which then finds the bytes placed and the parameters written (R61, R69). -/
theorem reaches_start {bytes : List Byte} {n : Word} (hb : s.busy = false) (hlen : bytes.length < 2 ^ 32)
    (hin : s.inputs = placeMessage bytes ++ digestCall (BitVec.ofNat 32 bytes.length) n) :
    ∃ q : State, Reaches s q ∧ q.busy = false ∧ q.inputs = hostInput .start ++ .wait :: hostInput (.rdStatus 0) ∧
      q.IV = s.IV ∧ q.LEN = BitVec.ofNat 32 bytes.length ∧ q.OHL = n ∧
      ∀ (k : Nat) (hk : k < bytes.length), q.MSG.read k = some bytes[k] := by
  obtain ⟨m, placed, -, reads⟩ := reaches_placed bytes hb (i := 0) (by omega) hin
  simp only [Nat.zero_add] at reads
  exact ⟨_, (placed.tail (stepsTo_of_wrLen hb rfl)).tail (stepsTo_of_wrOhl hb rfl), hb, rfl, rfl, rfl, rfl, reads⟩

/-- The end of the call, once the run has been begun or refused: WAIT, then the status read (R69). -/
theorem EngineRun.reaches_status {s : State} {ps : List Phase} (h : EngineRun ps s t)
    (hps : ∀ p ∈ ps, p.busy = true) (ht : t.busy = false) (r : Option Word) (d : Nat) :
    Reaches (s.withPort (.wait :: hostInput (.rdStatus 0)) r d) (t.withPort [] (some t.statusWord) d) :=
  (h.reaches_after_wait hps ht _ r d).tail (step_of_hostInput (i := .rdStatus 0) (rest := []) rfl rfl rfl)

/-- The rest of the call from an accepted START on (R64, R68, R69). -/
theorem reaches_done_of_start (hb : s.busy = false) (hv : validLen s.OHL.toNat)
    (hin : s.inputs = hostInput .start ++ .wait :: hostInput (.rdStatus 0)) :
    ∃ t, Reaches s t ∧ t.inputs = [] ∧ t.PHASE = .done ∧ t.ret = some 0x28 ∧ t.HLEN.toNat = s.OHL.toNat ∧
      t.HEX.toList.take s.OHL.toNat = digestText s.IV s.beginRun.msgByte s.LEN s.OHL := by
  have start : StepsTo s (s.beginRun.withPort (.wait :: hostInput (.rdStatus 0)) none s.draws) :=
    (step_of_hostInput rfl rfl hin).trans (execStart_of_validLen hb hv)
  obtain ⟨t, run, hdone, hhlen, text⟩ := engineRun_digestText (s := s.beginRun) rfl hv
  have finish := run.reaches_status (fun p => runPhases_busy) (congrArg Phase.busy hdone) none s.draws
  refine ⟨_, .head start finish, rfl, hdone, ?_, hhlen, text⟩
  exact congrArg some ((State.statusWord_eq t).trans (congrArg Phase.status hdone))

/-- The rest of the call from a rejected START on (R64, R69, R113). -/
theorem reaches_error_of_start (hb : s.busy = false) (hv : ¬ validLen s.OHL.toNat)
    (hin : s.inputs = hostInput .start ++ .wait :: hostInput (.rdStatus 0)) :
    ∃ t, Reaches s t ∧ t.inputs = [] ∧ t.PHASE = .error ∧ t.ret = some 0x4F ∧ t.ERRINFO = lenErrinfo s.OHL := by
  have start : StepsTo s ((s.raiseInvalidParameter (lenLong s.OHL) (lenShort s.OHL) (lenOdd s.OHL)).withPort
      (.wait :: hostInput (.rdStatus 0)) none s.draws) :=
    (step_of_hostInput rfl rfl hin).trans (execStart_of_not_validLen hb hv)
  have finish := EngineRun.reaches_status (s := s.raiseInvalidParameter (lenLong s.OHL) (lenShort s.OHL) (lenOdd s.OHL))
    (ps := []) rfl (fun p hp => absurd hp List.not_mem_nil) rfl none s.draws
  exact ⟨_, .head start finish, rfl, rfl, congrArg some (State.statusWord_eq _), rfl⟩

/-- Settles O47: the bytes and the parameters are written, then START decides between the run and the error. -/
theorem hostCallReturnsDigest : Obligations.HostCallReturnsDigest := by
  intro s bytes n hb hlen hin
  obtain ⟨q, before, hqb, hqin, hiv, hqlen, rfl, reads⟩ := reaches_start hb hlen hin
  by_cases hv : validLen q.OHL.toNat
  · obtain ⟨t, after, hinputs, hdone, hret, hhlen, text⟩ := reaches_done_of_start hqb hv hqin
    obtain ⟨k, run⟩ := exists_run_of_reaches (before.trans after)
    have placed : ∀ a, a < q.LEN.toNat → q.beginRun.msgByte a = bytes.getD a 0 := by
      intro a ha
      rw [hqlen, BitVec.toNat_ofNat, Nat.mod_eq_of_lt hlen] at ha
      rw [State.msgByte_of_placed (s := q.beginRun) rfl (reads a ha), List.getD_eq_getElem bytes 0 ha]
    rw [hiv, digestText_congr placed, hqlen] at text
    rw [digest_of_validLen hv]
    exact ⟨k, t, run, hinputs, hdone, hret, hhlen, text⟩
  · obtain ⟨t, after, hinputs, herror, hret, herrinfo⟩ := reaches_error_of_start hqb hv hqin
    obtain ⟨k, run⟩ := exists_run_of_reaches (before.trans after)
    rw [digest_of_not_validLen hv]
    exact ⟨k, t, run, hinputs, herror, hret, herrinfo⟩

end Sys2Proof.Machine
end

section
/-! Settles the statements about Stage A (41_stage_a_init.md): the state words as numbers, INIT's next state, and what the
first word says about the length. -/

namespace Sys2Proof.Machine

variable {s t : State}

/-- INIT's next state, in every state (R75, R76). -/
theorem exec_init (s : State) : exec .init s = .next { s with
    S := stageA s.IV s.LEN
    BLK := 0
    RND := 0
    CTR := 0
    ACCLEN := 0
    HLEN := 0
    PHASE := if s.LEN = 0 then .fin else .load } := rfl

/-- INIT's state words are Stage A's function of `IV` and `LEN` (R75). -/
theorem S_of_exec_init (h : exec .init s = .next t) : t.S = stageA s.IV s.LEN := by
  cases (exec_init s).symm.trans h
  rfl

/-- R75: state word `j` is its constant, exclusive or the length moved up by `j` bytes. -/
theorem stageA_getElem (iv : Vector Word 4) (len : Word) (j : Fin 4) :
    (stageA iv len)[j] = xor32 iv[j] (shl32 len (8 * j.val)) := Vector.getElem_ofFn j.isLt

theorem stageA_getElem_toNat (iv : Vector Word 4) (len : Word) (j : Fin 4) :
    (stageA iv len)[j].toNat = iv[j].toNat ^^^ (len.toNat * 2 ^ (8 * j.val) % 2 ^ 32) := by
  rw [stageA_getElem, xor32, BitVec.toNat_xor, shl32_toNat]

/-- The first state word takes the length unmoved (R75). -/
theorem stageA_getElem_zero (iv : Vector Word 4) (len : Word) : (stageA iv len)[0] = iv[0] ^^^ len := by
  have first := stageA_getElem iv len 0
  rwa [shl32, show 8 * (0 : Fin 4).val = 0 from rfl, BitVec.shiftLeft_zero] at first

/-- Exclusive or with a constant is injective, so the first state word tells the length (R77). -/
theorem stageA_getElem_zero_inj (iv : Vector Word 4) {len len' : Word} :
    (stageA iv len)[0] = (stageA iv len')[0] ↔ len = len' := by
  rw [stageA_getElem_zero, stageA_getElem_zero, BitVec.xor_right_inj]

/-- Settles O21: the state words are Stage A's function of `IV` and `LEN`, and its first word is injective in `LEN`. -/
theorem initSeparatesLengths : Obligations.InitSeparatesLengths := by
  intro s t s' t' hs ht hiv
  rw [S_of_exec_init hs, S_of_exec_init ht, hiv]
  refine ⟨fun hlen hfirst => ?_, fun hlen => ?_⟩
  · exact hlen ((stageA_getElem_zero_inj t.IV).1 hfirst)
  · rw [hlen]

/-- Settles O20: INIT's next state, with the state words and the length as numbers. -/
theorem initSetsStateFromLength : Obligations.InitSetsStateFromLength := by
  intro s
  refine ⟨_, exec_init s, stageA_getElem_toNat s.IV s.LEN, ?_, rfl⟩
  exact if_congr BitVec.toNat_eq rfl rfl

end Sys2Proof.Machine
end

section
/-! Settles the statements about Stage B (42_stage_b_block.md): the bytes of a loaded block, and the two passes with their
updates written out as library operations on bit vectors. -/

namespace Sys2Proof.Machine

/-! ### LOAD -/

/-- R15: byte `k` of a packed word is the `k`-th of the four bytes it was packed from. -/
theorem be32Byte_be32 (b : Fin 4 → Byte) (k : Fin 4) : be32Byte (be32 (b 0) (b 1) (b 2) (b 3)) k.val = b k := by
  apply BitVec.eq_of_toNat_eq
  have bound0 := (b 0).isLt
  have bound1 := (b 1).isLt
  have bound2 := (b 2).isLt
  have bound3 := (b 3).isLt
  rw [be32Byte_toNat, be32_toNat]
  match k with
  | 0 => change _ / 2 ^ 24 % 256 = (b 0).toNat; omega
  | 1 => change _ / 2 ^ 16 % 256 = (b 1).toNat; omega
  | 2 => change _ / 2 ^ 8 % 256 = (b 2).toNat; omega
  | 3 => change _ / 2 ^ 0 % 256 = (b 3).toNat; omega

/-- R80, R42: byte `k` of word `j` of a block is byte `4j + k` of the block. -/
theorem be32Byte_loadblock (M : Nat → Byte) (len n : Nat) (j k : Fin 4) :
    be32Byte (loadblock M len n)[j] k.val = blockByte M len n (4 * j.val + k.val) := by
  have word : (loadblock M len n)[j] = be32 (blockByte M len n (4 * j.val)) (blockByte M len n (4 * j.val + 1))
      (blockByte M len n (4 * j.val + 2)) (blockByte M len n (4 * j.val + 3)) := Vector.getElem_ofFn j.isLt
  rw [word]
  exact be32Byte_be32 (fun i => blockByte M len n (4 * j.val + i.val)) k

/-- R80: a byte of a block as a number, by whether its offset is below `LEN`. -/
theorem blockByte_toNat (M : Nat → Byte) (len n i : Nat) : (blockByte M len n i).toNat =
    if 16 * n + i < len then (M (16 * n + i)).toNat else (16 - (len - 16 * n)) * 31 % 256 := by
  rw [blockByte_eq, apply_ite BitVec.toNat, fillByte_eq, BitVec.toNat_ofNat, Nat.mod_mod]
  exact if_congr (by omega) rfl rfl

/-- Settles O22: each byte of a word of `W` is a byte of the block. -/
theorem loadFormsPaddedBlock : Obligations.LoadFormsPaddedBlock := by
  intro s hblk
  refine ⟨_, execLoad_of_le (Nat.le_of_lt hblk), fun j k => ?_, rfl⟩
  rw [← be32Byte_toNat, be32Byte_loadblock, blockByte_toNat]

/-! ### WMIX -/

/-- R82: the rotation amount, with the top byte as a quotient. -/
theorem mixShift_eq (w : Word) : mixShift w = w.toNat / 2 ^ 24 % 31 + 1 := by
  have bound : w.toNat < 2 ^ 32 := w.isLt
  have top : w.toNat / 2 ^ 24 % 2 ^ 8 = w.toNat / 2 ^ 24 := Nat.mod_eq_of_lt (by omega)
  rw [mixShift, BitVec.extractLsb'_toNat, Nat.shiftRight_eq_div_pow, top]

/-- One update of the word mixing pass (R82), `c` being the step's multiple of `C1` and `next` the right-hand neighbour. -/
theorem mixUpdate_eq (w x c next : Word) :
    xor32 (rotl32 (add32 (add32 w x) c) (mixShift w)) (mul32 next C2) =
      (w + x + c).rotateLeft (w.toNat / 2 ^ 24 % 31 + 1) ^^^ (next * 0x5BD1E995#32) := by
  rw [rotl32_eq_rotateLeft, mixShift_eq]
  rfl

/-- The four multiples of `C1` (R5, R82). -/
theorem mul32_C1 : mul32 0 C1 = 0x00000000#32 ∧ mul32 1 C1 = 0x9E3779B1#32 ∧ mul32 2 C1 = 0x3C6EF362#32 ∧
    mul32 3 C1 = 0xDAA66D13#32 := by decide

/-- Settles O25: the pass unrolled, update by update. -/
theorem wmixMixesSequentially : Obligations.WmixMixesSequentially := by
  intro s w0 w1 w2 w3
  obtain ⟨c0, c1, c2, c3⟩ := mul32_C1
  have words : wmix s.S s.W = #v[w0, w1, w2, w3] := by
    rw [wmix_eq]
    simp only [mixUpdate_eq, c0, c1, c2, c3]
    rfl
  rw [← words]
  rfl

/-! ### SUPD -/

/-- One update of the state update pass (R84), `next` being the right-hand neighbour: reducing the amount mod 32 changes
nothing. -/
theorem stateUpdate_eq (x w next : Word) (r j : Nat) :
    xor32 (rotl32 (add32 x w) (updateShift r j)) (add32 next C3) =
      (x + w).rotateLeft (7 * r + 3 * j) ^^^ (next + 0x6A09E667#32) := by
  rw [rotl32_eq_rotateLeft, updateShift, BitVec.rotateLeft_mod_eq_rotateLeft, Nat.mul_comm r, Nat.mul_comm j]
  rfl

/-- Incrementing a register is incrementing its number and keeping its width. -/
theorem add_one_eq_ofNat {n : Nat} (x : BitVec n) : x + 1 = BitVec.ofNat n (x.toNat + 1) := by
  rw [BitVec.ofNat_add, BitVec.ofNat_toNat, BitVec.setWidth_eq]
  rfl

/-- Settles O26: the pass unrolled, update by update, then the two branches of the loop control. -/
theorem supdUpdatesSequentially : Obligations.SupdUpdatesSequentially := by
  intro s r s0 s1 s2 s3
  have words : supd s.S s.W r = #v[s0, s1, s2, s3] := by
    rw [supd_eq]
    simp only [stateUpdate_eq]
    rfl
  rw [← words]
  refine ⟨fun hlt => ?_, fun hlast => ?_⟩
  · rw [← add_one_eq_ofNat]
    exact execSupd_of_lt hlt
  · rw [← add_one_eq_ofNat]
    exact execSupd_of_last hlast

end Sys2Proof.Machine
end

section
/-! Settles the statement about Stage C (43_stage_c_final.md): where FIN puts each byte of its output words. -/

namespace Sys2Proof.Machine

/-- FIN's next state, in every state (R90, R91). -/
theorem exec_fin (s : State) : exec .fin s = .next { s with BASE := stageC s.S, PHASE := .xpnd } := rfl

/-- R90: the output words a, b, c, d, with the library's logical shifts. -/
theorem finWords_eq (S : Vector Word 4) : finWords S =
    #v[S[0] ^^^ (S[1] <<< 5) ^^^ (S[2] >>> 7), S[1] ^^^ (S[2] <<< 3) ^^^ (S[3] >>> 11),
      S[2] ^^^ (S[3] <<< 7) ^^^ (S[0] >>> 13), S[3] ^^^ (S[0] <<< 11) ^^^ (S[1] >>> 3)] := rfl

/-- R90, R42: byte `4j + k` of the base digest is byte `k` of output word `j`. -/
theorem stageC_getElem (S : Vector Word 4) (j k : Fin 4) :
    (stageC S)[4 * j.val + k.val]'(by omega) = be32Byte (finWords S)[j] k.val := by
  have word : (4 * j.val + k.val) / 4 = j.val := by omega
  have place : (4 * j.val + k.val) % 4 = k.val := by omega
  simp only [stageC, Vector.getElem_ofFn, word, place, Fin.getElem_fin]

/-- Settles O27: each byte of `BASE` is a byte of an output word, as a number. -/
theorem finPacksShiftedWords : Obligations.FinPacksShiftedWords := by
  intro s
  refine ⟨_, exec_fin s, fun j k => ?_, rfl⟩
  rw [stageC_getElem, be32Byte_toNat, finWords_eq]

end Sys2Proof.Machine
end

section
/-! Settles the statements about Stage D (44_stage_d_expand.md): where XPND and EMIT put each byte, and which bytes they leave. -/

namespace Sys2Proof.Machine

variable {s : State}

/-! ### XPND -/

/-- R95: the counter byte as a quotient. -/
theorem counterByte_toNat (ctr : Word) (idx : Nat) :
    (counterByte ctr idx).toNat = ctr.toNat / 2 ^ (8 * (idx % 4)) % 256 := by
  rw [counterByte, BitVec.extractLsb'_toNat, Nat.shiftRight_eq_div_pow]

/-- R95: a byte of a chunk as a number, exclusive or first, then the addition, then 8 bits kept. -/
theorem chunk_getElem_toNat (base : Vector Byte 16) (ctr : Word) (idx : Fin 16) : (chunk base ctr)[idx].toNat =
    ((base[idx].toNat ^^^ (ctr.toNat / 2 ^ (8 * (idx.val % 4)) % 256)) + 0xA3) % 256 := by
  have byte : (chunk base ctr)[idx] = add8 (base[idx] ^^^ counterByte ctr idx.val) KADD := Vector.getElem_ofFn idx.isLt
  rw [byte, add8_toNat, BitVec.toNat_xor, counterByte_toNat]
  rfl

/-- R95: where there is room for a chunk, its bytes stand in order from `start` on. -/
theorem appendChunk_getElem?_add (acc : Vector Byte 32) (x : Vector Byte 16) {start : Nat} (room : start ≤ 16)
    (idx : Fin 16) : (appendChunk acc start x)[start + idx.val]? = some x[idx] := by
  have inside : start + idx.val < 32 := by omega
  simp [appendChunk, inside]

/-- A chunk leaves the bytes below it and above it alone (R95). -/
theorem appendChunk_getElem_of_outside (acc : Vector Byte 32) (x : Vector Byte 16) {start : Nat} {k : Fin 32}
    (outside : k.val < start ∨ start + 16 ≤ k.val) : (appendChunk acc start x)[k] = acc[k] := by
  have miss : ¬ (start ≤ k.val ∧ k.val - start < 16) := by omega
  exact (Vector.getElem_ofFn k.isLt).trans (dif_neg miss)

/-- Settles O28: a byte of `ACC` by whether the chunk covers it, then the counters as numbers. -/
theorem xpndAppendsChunk : Obligations.XpndAppendsChunk := by
  intro s room
  have acclen : (s.ACCLEN + 16).toNat = s.ACCLEN.toNat + 16 :=
    BitVec.toNat_add_of_lt (show s.ACCLEN.toNat + 16 < 2 ^ 6 by omega)
  refine ⟨_, execXpnd_of_le room, fun idx => ?_, fun k => appendChunk_getElem_of_outside _ _, acclen,
    add32_toNat s.CTR 1, rfl, rfl⟩
  rw [appendChunk_getElem?_add _ _ room, Option.map_some, chunk_getElem_toNat]

/-! ### EMIT -/

/-- R98: character `2i + j` of the text of some bytes is character `j` of byte `i`. -/
theorem hexText_getElem? (l : List Byte) {i : Nat} (hi : i < l.length) (j : Fin 2) :
    (l.flatMap hex2)[2 * i + j.val]? = some ((hex2 l[i])[j.val]'j.isLt) := by
  induction l generalizing i with
  | nil => exact absurd hi (Nat.not_lt_zero i)
  | cons b l ih =>
    have two : (hex2 b).length = 2 := rfl
    rw [List.flatMap_cons]
    cases i with
    | zero =>
      rw [Nat.mul_zero, Nat.zero_add, List.getElem?_append_left j.isLt]
      exact List.getElem?_eq_getElem j.isLt
    | succ i =>
      have shift : 2 * (i + 1) + j.val - (hex2 b).length = 2 * i + j.val := by omega
      rw [List.getElem?_append_right (by omega), shift]
      exact ih (Nat.lt_of_succ_lt_succ hi)

/-- The two truncations keep both characters of every byte below an even length (R98). -/
theorem hexString_getElem? (acc : Vector Byte 32) {n : Nat} (heven : n % 2 = 0) {i : Fin 32} (hi : 2 * i.val < n)
    (j : Fin 2) : (hexString acc.toList n)[2 * i.val + j.val]? = some ((hex2 acc[i])[j.val]'j.isLt) := by
  have half : needed n = n / 2 := rfl
  have kept : i.val < (acc.toList.take (needed n)).length := by
    rw [List.length_take, Vector.length_toList]
    omega
  rw [hexString, List.getElem?_take_of_lt (by omega), hexText_getElem? _ kept j]
  simp

/-- R16: a byte's two characters as numbers, the high nibble first. -/
theorem hex2_getElem_toNat (b : Byte) : ((hex2 b)[0]'(by decide : 0 < 2)).toNat = asciiHex (b.toNat / 16) ∧
    ((hex2 b)[1]'(by decide : 1 < 2)).toNat = asciiHex (b.toNat % 16) := by
  have chars := hex2_map_toNat b
  simp only [hex2, List.map_cons, List.cons.injEq] at chars
  obtain ⟨high, low, -⟩ := chars
  exact ⟨high, low⟩

/-- A result register with a character of the text takes that character (R98). -/
theorem writeHex_getElem_of_some (hex : Vector Byte 64) {H : List Byte} {k : Nat} {c : Byte} (hk : k < 64)
    (h : H[k]? = some c) : (writeHex hex H)[k] = c := by
  simp [writeHex, h]

/-- A result register at or above the end of the text keeps its bits (R98). -/
theorem writeHex_getElem_of_length_le (hex : Vector Byte 64) {H : List Byte} {k : Fin 64} (h : H.length ≤ k.val) :
    (writeHex hex H)[k] = hex[k] := by
  simp [writeHex, h]

/-- EMIT's next state for every even length up to 64, 0 among them (R98, R99; log 12). -/
theorem execEmit_of_even_le (heven : s.OHL.toNat % 2 = 0) (hmax : s.OHL.toNat ≤ 64) :
    execEmit s = .next { s with
      HEX := writeHex s.HEX (hexString s.ACC.toList s.OHL.toNat)
      HLEN := s.OHL.setWidth 7
      PHASE := .done } := by
  refine if_neg fun hshort => ?_
  have := (hexString_short_iff s.ACC s.OHL.toNat).1 hshort
  omega

/-- Settles O29: a character of `HEX` by whether the text reaches it. -/
theorem emitWritesHexText : Obligations.EmitWritesHexText := by
  intro s heven hmax
  have hlen : (s.OHL.setWidth 7).toNat = s.OHL.toNat := by
    rw [BitVec.toNat_setWidth, Nat.mod_eq_of_lt (by omega)]
  refine ⟨_, execEmit_of_even_le heven hmax, fun i hi => ?_, fun k hk => ?_, hlen, rfl, rfl⟩
  · obtain ⟨high, low⟩ := hex2_getElem_toNat s.ACC[i]
    have char := hexString_getElem? s.ACC heven hi
    exact ⟨(congrArg _ (writeHex_getElem_of_some _ _ (char 0))).trans high,
      (congrArg _ (writeHex_getElem_of_some _ _ (char 1))).trans low⟩
  · apply writeHex_getElem_of_length_le
    rw [hexString_length]
    exact (Nat.min_le_left _ _).trans hk

end Sys2Proof.Machine
end

section
/-! Settles the statements about the one exception (60_exceptions.md): which requested lengths START accepts, and the error
value that a rejected one leaves. -/

namespace Sys2Proof.Machine

/-! ### The length check -/

/-- The valid lengths are the 32 numbers 2, 4, ..., 64 (R111). -/
theorem validLen_iff_exists (n : Nat) : validLen n ↔ ∃ k : Nat, k < 32 ∧ n = 2 * (k + 1) := by
  unfold validLen
  constructor
  · rintro ⟨even, low, high⟩
    exact ⟨n / 2 - 1, by omega, by omega⟩
  · rintro ⟨k, hk, rfl⟩
    omega

/-- Settles O30: the check is validity as a predicate, which is validity as a list of 32 values. -/
theorem validLengthsAreEvenTwoToSixtyFour : Obligations.ValidLengthsAreEvenTwoToSixtyFour :=
  ⟨lenBad_eq_false_iff, fun n => (lenBad_eq_false_iff n).trans (validLen_iff_exists n.toNat), by decide⟩

/-! ### The error entry -/

/-- R113: the error value of a rejected length: 0 and 1 are too short, up to 63 only an odd length is rejected, and the rest
is too long. -/
theorem lenErrinfo_rows {n : Word} (h : ¬ validLen n.toNat) : lenErrinfo n =
    if n.toNat = 0 then 0x201#32
    else if n.toNat = 1 then 0x301#32
    else if n.toNat ≤ 63 then 0x101#32
    else if n.toNat % 2 = 0 then 0x401#32
    else 0x501#32 := by
  unfold validLen at h
  split_ifs with zero one high even
  · simp [lenErrinfo_eq, zero]
  · simp [lenErrinfo_eq, one]
  · have odd : n.toNat % 2 = 1 := by omega
    simp [lenErrinfo_eq, odd, show ¬ n.toNat < 2 by omega, show ¬ 64 < n.toNat by omega]
  · simp [lenErrinfo_eq, even, show ¬ n.toNat < 2 by omega, show 64 < n.toNat by omega]
  · have odd : n.toNat % 2 = 1 := by omega
    simp [lenErrinfo_eq, odd, show ¬ n.toNat < 2 by omega, show 64 < n.toNat by omega]

/-- Settles O32: START's rejection, with the error value row by row; `STATUS` and the pins are those of ERROR. -/
theorem rejectedStartRecordsConstraints : Obligations.RejectedStartRecordsConstraints := fun _ hb hv =>
  ⟨_, execStart_of_not_validLen hb hv, lenErrinfo_rows hv, State.statusWord_eq _, rfl, rfl, rfl⟩

end Sys2Proof.Machine
end

section
/-! Settles the statement about host transactions between the engine steps of a run (70_reset_and_hazards.md R139): while BUSY
a host word touches the port alone (R61 to R63, R65, R66), and no engine turn looks at the port. -/

namespace Sys2Proof.Machine

variable {s t : State}

/-- While BUSY a host transaction changes nothing but what the port returns (R55, R56, R61 to R63, R65, R66). -/
theorem exec_isHost_of_busy {i : Instr} (hi : i.isHost = true) (hb : s.busy = true) :
    ∃ r d, exec i s = .next (s.withPort s.inputs r d) := by
  cases i with
  | init | load | wmix | supd | fin | xpnd | emit => cases hi
  | start => exact ⟨none, s.draws, execStart_of_busy hb⟩
  | clear => exact ⟨none, s.draws, execClear_of_busy hb⟩
  | wrLen v =>
    obtain ⟨-, -, len, -⟩ := busyIgnoresWrites s v hb
    exact ⟨none, s.draws, len⟩
  | wrOhl v =>
    obtain ⟨-, -, -, ohl⟩ := busyIgnoresWrites s v hb
    exact ⟨none, s.draws, ohl⟩
  | wrCmd v | wrOther r v => exact ⟨none, s.draws, rfl⟩
  | rdCmd d | rdStatus d | rdErrinfo d | rdLen d | rdOhl d | rdHlen d | rdOther r d => exact ⟨some _, s.draws, rfl⟩
  | rdHex i6 d =>
    obtain ⟨t, he⟩ := exec_of_isHost hi s
    obtain ⟨v, rfl⟩ | rfl := execRdHex_next (d := d) he
    · exact ⟨some v, s.draws, he⟩
    · exact ⟨some _, s.draws + 1, he⟩

/-- The engine's turn on the host's list is the engine's turn, whatever the port holds (R67; log 1). -/
theorem step_withPort_engine (h : s.engineTurn = .next t) (rest : List Input) (r : Option Word) (d : Nat) :
    step (s.withPort (.engine :: rest) r d) = .next (t.withPort rest r d) :=
  (step_of_engine rfl).trans (State.engineTurn_withPort h rest r d)

/-- A host word met while BUSY is taken off the list and leaves the engine as it is. -/
theorem step_withPort_word {w : HostWord} (hb : s.busy = true) (rest : List Input) (r : Option Word) (d : Nat) :
    ∃ r' d', step (s.withPort (.word w :: rest) r d) = .next (s.withPort rest r' d') := by
  obtain ⟨r', d', he⟩ := exec_isHost_of_busy (s := s.withPort rest r d) (decodeHost_isHost_wf w).1 hb
  exact ⟨r', d', (step_of_word rfl).trans he⟩

/-- A run with host words between its engine turns and the silent run of as many turns end alike up to the port (R139): an
engine turn is a step of both, a host word met while BUSY is a step of the first alone, and the invariant gives the last turn
(R117). -/
theorem run_interleaved {ins : List Input} (h : s.Inv) (hin : s.inputs = [])
    (hins : ∀ x ∈ ins, x = .engine ∨ ∃ w, x = .word w)
    (hbusy : ∀ j, j ≤ ins.count .engine → ∃ u, Sys2Proof.core.run j s = .next u ∧ State.busy u = true)
    (r : Option Word) (d : Nat) :
    ∃ (t : State) (r' : Option Word) (d' : Nat),
      Sys2Proof.core.run (ins.length + 1) (s.withPort (ins ++ [.engine]) r d) = .next (t.withPort [] r' d') ∧
      Sys2Proof.core.run (ins.count .engine + 1) s = .next t := by
  induction ins generalizing s r d with
  | nil =>
    obtain ⟨t, hturn, -⟩ := State.engineTurn_keeps_inv h
    exact ⟨t, r, d, run_succ_of_step 0 (step_withPort_engine hturn [] r d),
      run_succ_of_step 0 ((step_of_silent hin).trans hturn)⟩
  | cons x rest ih =>
    obtain ⟨rfl | ⟨w, rfl⟩, hrest⟩ := List.forall_mem_cons.1 hins
    · obtain ⟨v, hturn, hv⟩ := State.engineTurn_keeps_inv h
      have silent : ∀ k, Sys2Proof.core.run (k + 1) s = Sys2Proof.core.run k v := fun k =>
        run_succ_of_step k ((step_of_silent hin).trans hturn)
      rw [List.count_cons_self] at hbusy ⊢
      obtain ⟨t, r', d', hosted, hsilent⟩ := ih hv ((State.engineTurn_inputs hturn).trans hin) hrest
        (fun j hj => silent j ▸ hbusy (j + 1) (Nat.succ_le_succ hj)) r d
      exact ⟨t, r', d', (run_succ_of_step _ (step_withPort_engine hturn _ r d)).trans hosted, (silent _).trans hsilent⟩
    · obtain ⟨u, hu, hb⟩ := hbusy 0 (Nat.zero_le _)
      cases hu
      rw [List.count_cons_of_ne Input.noConfusion] at hbusy ⊢
      obtain ⟨r₁, d₁, hword⟩ := step_withPort_word (w := w) hb (rest ++ [.engine]) r d
      obtain ⟨t, r', d', hosted, hsilent⟩ := ih h hin hrest hbusy r₁ d₁
      exact ⟨t, r', d', (run_succ_of_step _ hword).trans hosted, hsilent⟩

/-- Settles O43: the two runs start from the same engine and end with the same engine. -/
theorem interleavingDoesNotMatter : Obligations.InterleavingDoesNotMatter := by
  intro s ins h hins hbusy
  obtain ⟨t, r, d, hosted, silent⟩ := run_interleaved (h.withPort [] s.ret s.draws) rfl hins hbusy s.ret s.draws
  exact ⟨t.withPort [] r d, t, hosted, silent, rfl, rfl⟩

end Sys2Proof.Machine
end
